-- ==== Sys2Proof/Word.lean ====
section
/-! DEFINITION. The word types of the SN416: the widths the manual gives its counts, times and codes. -/

namespace Sys2Proof

/-- One byte of the configuration memory or of a notice's payload. -/
abbrev Byte := BitVec 8

/-- A 16-bit field: a revolution, a drive angle, a config signature, a two-byte payload field. -/
abbrev Half := BitVec 16

/-- A value of the microsecond time base, a 32-bit count that wraps (00_scope.md, Conventions). -/
abbrev Time := BitVec 32

/-- A conveyor position in mm, a 32-bit count that wraps (00_scope.md, Conventions; R136). -/
abbrev Position := BitVec 32

/-- A report or lifetime counter, 32 bits wide and wrapping (R1, R176). -/
abbrev Count := BitVec 32

/-- A link address, 0..31 (00_scope.md, Stations and addresses). -/
abbrev Address := BitVec 5

/-- A recipe bank number, 0..3. -/
abbrev BankId := BitVec 2

/-- A spindle torque, −2048..2047 in 0.01 N·m (R69). -/
abbrev Torque := BitVec 12

end Sys2Proof
end

