-- ==== Sys2Proof/Syntax.lean ====
section
/-! DEFINITION. The commands of the SN416: one constructor of `Instr` for each row of
spec/opcode_table.json, with the operands the row's rules read. Every command but the two resets
carries `t`, the value of the time base at which it is taken (log 1). -/

namespace Sys2Proof

/-- What the node finds when it runs its start sequence: the strap levels (R182), whether the crystal is
already ready when step 6 begins (R183), whether the configuration memory answers (R173) and the bytes
of it that were programmed from outside since the last start. Log 6. -/
structure StartInputs where
  roleHigh : Bool
  addr : Address
  crystalReady : Bool
  memoryAnswers : Bool
  memoryChanges : List (BitVec 11 × Byte)
  deriving DecidableEq, Repr

/-- The levels of the lines whose later changes are commands of their own, as power comes on. Log 5. -/
structure LineLevels where
  pwarn : Bool
  run : Bool
  valveOpen : Bool
  deriving DecidableEq, Repr

/-- A reading of the temperature sensor (R28) or the panel sensor (R159): a signed value and whether its
status is OK. Log 23. -/
structure SensorReading where
  value : Int
  ok : Bool
  deriving DecidableEq, Repr

/-- The drive status of a feedback sample (section 4.2). -/
inductive DriveStatus where
  | ok
  | fault
  deriving DecidableEq, Repr

/-- A feedback sample of the drive line (section 4.2, R69). Log 10. -/
structure DriveSample where
  torque : Torque
  angle : Half
  status : DriveStatus
  parity : Bool
  deriving DecidableEq, Repr

/-- A sample event at the closing unit: an arrival on the drive line (R69) or a missing sample (R70). -/
inductive SampleEvent where
  | arrival (sample : DriveSample)
  | missing
  deriving DecidableEq, Repr

/-- The moment of a command that can meet a sample: the time at which it is taken, and the sample event, if any,
that came together with it, the closing unit taking that event before the command and the sequencer taking its
report after it (R85 to R87, log 12). -/
structure Moment where
  time : Time
  ahead : Option SampleEvent
  deriving DecidableEq, Repr

/-- The payload of a SEAL notice, as section 6.7 lays it out. -/
structure SealPayload where
  revolution : Half
  bank : BankId
  capVerdict : BitVec 4
  flags : Byte
  detail : Byte
  securityAngle : Half
  peakTorque : Half
  dose : Half
  temperature : Half
  vPred : Half
  signature : Half
  deriving DecidableEq, Repr

/-- The payload of a VOID notice (section 6.7). -/
structure VoidPayload where
  revolution : Half
  reason : Byte
  deriving DecidableEq, Repr

/-- The payload of a VERDICT notice (section 6.7). -/
structure VerdictPayload where
  head : Byte
  revolution : Half
  code : Byte
  flags : Byte
  vMeas : Half
  deriving DecidableEq, Repr

/-- The payload of a JOIN notice (section 6.7). -/
structure JoinPayload where
  role : Byte
  cause : Byte
  signature : Half
  activeBank : Byte
  flags : Byte
  deriving DecidableEq, Repr

/-- The commands of the block. Those that reach the sequencer with boundaries, aborts or the power warning carry
a `Moment`, the others the time alone (log 1). -/
inductive Instr where
  /-- POWER_ON_RESET (R183). `cut` is how many bytes of a running save had been written (R187, log 9). -/
  | powerOnReset (start : StartInputs) (cut : Nat) (levels : LineLevels)
  /-- RESET_LINE (R183). -/
  | resetLine (start : StartInputs) (cut : Nat)
  /-- CRYSTAL_READY (R183). -/
  | crystalReady (t : Time)
  /-- CRYSTAL_WAIT_EXPIRY (R183). -/
  | crystalWaitExpiry (t : Time)
  /-- POWER_WARNING_ASSERTED (R186). -/
  | powerWarningAsserted (m : Moment)
  /-- SAVE_COMPLETE (R187). -/
  | saveComplete (t : Time) (start : StartInputs)
  /-- POWER_WARNING_NEGATED (R187). -/
  | powerWarningNegated (t : Time) (start : StartInputs)
  /-- TURRET_PULSE (R2), with the levels of the jar-present and cap-present sensors at that moment. -/
  | turretPulse (m : Moment) (jar cap : Bool)
  /-- PITCH_LOSS_DEADLINE (R11). -/
  | pitchLossDeadline (m : Moment)
  /-- PHASE_BOUNDARY (R17), with the level of the cap-present sensor at that moment. -/
  | phaseBoundary (m : Moment) (cap : Bool)
  /-- RUN_LINE_FALL (R13). -/
  | runLineFall (m : Moment)
  /-- RUN_LINE_RISE (R14). -/
  | runLineRise (t : Time)
  /-- TEMPERATURE_READING (R28). -/
  | temperatureReading (t : Time) (reading : SensorReading)
  /-- VALVE_FEEDBACK_CHANGE (R46): the level the position switch now shows. -/
  | valveFeedbackChange (t : Time) (shownOpen : Bool)
  /-- SETTLE_TIMER_EXPIRY (R46). -/
  | settleTimerExpiry (t : Time)
  /-- DOSE_TICK (R65). -/
  | doseTick (t : Time)
  /-- ROSTER_EXPIRY (R61): the peer whose entry expires. -/
  | rosterExpiry (t : Time) (peer : Address)
  /-- DRIVE_SAMPLE (R69). -/
  | driveSample (t : Time) (sample : DriveSample)
  /-- SAMPLE_DEADLINE (R70). -/
  | sampleDeadline (t : Time)
  /-- FRAME_START (R107): the line is idle. -/
  | frameStart (t : Time)
  /-- CONTEST_LOST (R108). -/
  | contestLost (t : Time)
  /-- TRANSMIT_ERROR (R109): whether another station's frame goes on on the wire (log 15). -/
  | transmitError (t : Time) (lineBusy : Bool)
  /-- FRAME_SENT (R110). -/
  | frameSent (t : Time)
  /-- RX_FRAME_ERROR (R111): the bits read after the start bit, recessive as true (log 16). -/
  | rxFrameError (t : Time) (bits : List Bool)
  /-- DUPLICATE_ADDRESS (R113). -/
  | duplicateAddress (t : Time)
  /-- STEAM_OPEN_RECEIVED (R60). -/
  | steamOpenReceived (t : Time) (sender : Address)
  /-- STEAM_SHUT_RECEIVED (R60). -/
  | steamShutReceived (t : Time) (sender : Address)
  /-- VALVE_FAULT_RECEIVED (R60): the fault-state byte as received. -/
  | valveFaultReceived (t : Time) (sender : Address) (faultState : Byte)
  /-- JOIN_RECEIVED (R126, R60, R139). -/
  | joinReceived (t : Time) (sender : Address) (payload : JoinPayload)
  /-- VERDICT_RECEIVED (R124, R125). -/
  | verdictReceived (t : Time) (sender : Address) (payload : VerdictPayload)
  /-- SEAL_RECEIVED (R137). -/
  | sealReceived (t : Time) (sender : Address) (payload : SealPayload)
  /-- VOID_RECEIVED (R137). -/
  | voidReceived (t : Time) (sender : Address) (payload : VoidPayload)
  /-- CONVEYOR_ADVANCE (R136): the level of phase B at the rising edge of phase A, high for backward. -/
  | conveyorAdvance (t : Time) (backward : Bool)
  /-- TRANSIT_WINDOW_CLOSE (R145, R146). -/
  | transitWindowClose (t : Time)
  /-- JAR_EDGE (R148, R149). -/
  | jarEdge (t : Time)
  /-- PANEL_READING (R159). -/
  | panelReading (t : Time) (reading : SensorReading)
  /-- READING_WINDOW_CLOSE (R160). -/
  | readingWindowClose (t : Time)
  /-- GATE_POSITION_REACHED (R167). -/
  | gatePositionReached (t : Time)
  /-- REJECT_PULSE_END (R168). -/
  | rejectPulseEnd (t : Time)
  /-- SELECT_BANK (R43, R177, R178): COMMAND op 1. -/
  | selectBank (t : Time) (sender : Address) (mask : BitVec 32) (arg : Byte)
  /-- LOCK (R44): COMMAND op 2. -/
  | lock (t : Time) (sender : Address) (mask : BitVec 32) (arg : Byte)
  /-- RESTORE (R44): COMMAND op 3. -/
  | restore (t : Time) (sender : Address) (mask : BitVec 32) (arg : Byte)
  /-- TRIM_RESET (R132): COMMAND op 4. -/
  | trimReset (t : Time) (sender : Address) (mask : BitVec 32) (arg : Byte)
  /-- CLEAR_COUNTS (R179): COMMAND op 5. -/
  | clearCounts (t : Time) (sender : Address) (mask : BitVec 32) (arg : Byte)
  /-- REPORT (R180): COMMAND op 6. -/
  | report (t : Time) (sender : Address) (mask : BitVec 32) (arg : Byte)
  /-- RELEASE_STOP (R170): COMMAND op 7. -/
  | releaseStop (t : Time) (sender : Address) (mask : BitVec 32) (arg : Byte)
  /-- COMMAND_OP_UNKNOWN (R177): a COMMAND with the op byte as received. -/
  | commandOpUnknown (t : Time) (sender : Address) (mask : BitVec 32) (op : Byte) (arg : Byte)
  deriving DecidableEq, Repr

end Sys2Proof
end

