-- ==== Sys2Proof/Machine/Bits.lean ====
section
/-! DEFINITION. Counts that wrap, clamps, bit and byte order, and the CRC of R106. -/

namespace Sys2Proof.Machine

/-- How far `now` lies past `point`, as the signed 32-bit difference of the Conventions. -/
def since (now point : BitVec 32) : Int := (now - point).toInt

/-- `now` has reached `point`: the signed difference is zero or positive (Conventions). -/
def reached (now point : BitVec 32) : Bool := decide (0 ≤ since now point)

/-- `now` has passed `point`: the signed difference is 1 or more (R136). -/
def passed (now point : BitVec 32) : Bool := decide (1 ≤ since now point)

/-- Milliseconds as a length on the microsecond time base. -/
def msTime (ms : Nat) : Time := BitVec.ofNat 32 (ms * 1000)

/-- `x` clamped to `lo..hi` (Conventions). -/
def clampNat (lo hi : Nat) (x : Int) : Nat := min hi (max lo x.toNat)

/-- The low `w` bits of `x`, most significant bit first. -/
def bitsOf : Nat → Nat → List Bool
  | 0, _ => []
  | w + 1, x => x.testBit w :: bitsOf w x

/-- The number that bits spell, most significant bit first. -/
def natOfBits (bs : List Bool) : Nat := bs.foldl (fun a b => 2 * a + b.toNat) 0

/-- The number that bytes spell, most significant byte first (Conventions). -/
def natOfBytes (bs : List Byte) : Nat := bs.foldl (fun a b => 256 * a + b.toNat) 0

/-- The bits of bytes taken in order, each most significant bit first. -/
def bitsOfBytes (bs : List Byte) : List Bool := bs.flatMap fun b => bitsOf 8 b.toNat

/-- `n` bytes read from bits, each most significant bit first. -/
def bytesOfBits : Nat → List Bool → List Byte
  | 0, _ => []
  | n + 1, bs => BitVec.ofNat 8 (natOfBits (bs.take 8)) :: bytesOfBits n (bs.drop 8)

/-- A 16-bit field as two bytes, most significant first. -/
def bytesOfHalf (x : Half) : List Byte := [BitVec.ofNat 8 (x.toNat / 256), BitVec.ofNat 8 x.toNat]

/-- A 32-bit field as four bytes, most significant first. -/
def bytesOfCount (x : Count) : List Byte :=
  [BitVec.ofNat 8 (x.toNat / 16777216), BitVec.ofNat 8 (x.toNat / 65536),
   BitVec.ofNat 8 (x.toNat / 256), BitVec.ofNat 8 x.toNat]

/-- Eight flags as a byte, bit 7 first. -/
def flagByte (b7 b6 b5 b4 b3 b2 b1 b0 : Bool) : Byte :=
  BitVec.ofNat 8 (natOfBits [b7, b6, b5, b4, b3, b2, b1, b0])

/-- One bit through the check register: the top bit is exclusive-ORed with the bit, the register shifted
left, and the polynomial 1021 exclusive-ORed in when the result was 1 (R106). -/
def crcStep (r : Half) (b : Bool) : Half :=
  if r.msb != b then (r <<< 1) ^^^ 0x1021#16 else r <<< 1

/-- The CRC of bits in the order they are sent, preset to all ones, without inversion (R106). -/
def crc16 (bs : List Bool) : Half := bs.foldl crcStep 0xFFFF#16

/-- How many of the bits are 1. -/
def onesIn (bs : List Bool) : Nat := bs.countP id

end Sys2Proof.Machine
end

