-- ==== Sys2Proof/Config.lean ====
section
/-! DEFINITION. What is fixed around the SN416 rather than by its rules. The spec leaves no result of a
command undefined, so no free value stands here; the one open value is what a byte of the external
configuration memory reads as that nothing has written. -/

namespace Sys2Proof

/-- DESIGN CHOICE (log 8): a byte of the configuration memory that nothing has written reads as FF,
the value an erased serial memory gives. Unsafe. -/
def Config.erasedByte : Byte := 0xFF#8

/-- The configuration memory holds 2048 bytes (10_recipe_banks_commands_and_reports.md, 10.1). -/
def Config.memoryBytes : Nat := 2048

end Sys2Proof
end

