-- ==== Sys2Proof/Machine/State.lean ====
section
/-! DEFINITION. The state of the SN416: every piece of state its chapters give it, as plain data, and its
value right after reset. INVENTORY.md lists each field with its rule. -/

namespace Sys2Proof.Machine

/-- One value for each of the four recipe banks. -/
structure PerBank (α : Type) where
  b0 : α
  b1 : α
  b2 : α
  b3 : α
  deriving DecidableEq, Repr

/-! ### Node (Chapter 11) -/

/-- The node states of section 11.1. -/
inductive NodeMode where
  | start
  | operating
  | halted
  | saved
  deriving DecidableEq, Repr

/-- The strapped role (R182). -/
inductive Role where
  | head
  | check
  deriving DecidableEq, Repr

/-- The reset causes (R185). -/
inductive ResetCause where
  | power
  | pin
  | warnRecovery
  deriving DecidableEq, Repr

/-- Levels of the input lines that rules read outside the command that changes them (log 5). -/
structure Pins where
  run : Bool
  pwarn : Bool
  valveOpen : Bool
  jarPresent : Bool
  capPresent : Bool
  deriving DecidableEq, Repr

/-- The node as a whole (R182 to R187). -/
structure Node where
  mode : NodeMode
  /-- Step 6 of the start sequence is running (R183). -/
  awaitingCrystal : Bool
  /-- The time base counts from the crystal (R183). -/
  onCrystal : Bool
  role : Role
  address : Address
  cause : ResetCause
  unclean : Bool
  configBad : Bool
  strapsBad : Bool
  /-- The bytes of a running save that are not yet written, in the order of R186. -/
  saving : List (Nat × Byte)
  deriving DecidableEq, Repr

/-! ### Configuration unit (Chapter 10) -/

/-- The configuration memory: listed bytes in rising address order, none equal to what an unlisted byte
reads as (`Memory.wf`). -/
abbrev Memory := List Host.Cell

/-- The header of section 10.1. `pAmb` is the pressure in use: a field of 0 stands for 1013 (R174). -/
structure Header where
  formatId : Nat
  n : Nat
  pick : Nat
  flushStart : Nat
  applyStart : Nat
  flushEnd : Nat
  applyEnd : Nat
  release : Nat
  k : Nat
  qn : Nat
  settleMs : Nat
  rosterMs : Nat
  pAmb : Nat
  initialBank : Nat
  dTravel : Nat
  w : Nat
  rRead : Nat
  gGate : Nat
  pulseMs : Nat
  nStop : Nat
  m : Nat
  storedSignature : Half
  deriving DecidableEq, Repr

/-- A recipe bank of section 10.1. -/
structure Bank where
  marker : Byte
  doseTarget : Nat
  trimStep : Nat
  trimMax : Nat
  trimMargin : Nat
  defaultTemp : Nat
  tEngage : Nat
  tFinal : Nat
  tHold : Nat
  spinSpeed : Nat
  sMax : Nat
  aMin : Nat
  aMax : Nat
  tCool : Nat
  vMin : Nat
  fallbackMargin : Nat
  deviation : Nat
  /-- The purge table, eight points (dose, fraction) (R95). -/
  purge : List (Nat × Nat)
  d0 : Int
  gain : Nat
  deriving DecidableEq, Repr

/-- Lifetime counters 1 to 4 (R176). -/
structure Lifetime where
  one : Count
  two : Count
  three : Count
  four : Count
  deriving DecidableEq, Repr

/-- The persistent area of section 10.1. -/
structure Persistent where
  marker : Byte
  activeBank : Byte
  trims : PerBank Half
  lifetime : Lifetime
  deriving DecidableEq, Repr

/-- The configuration unit (section 10.2). -/
structure ConfigUnit where
  header : Header
  banks : PerBank Bank
  usable : PerBank Bool
  signature : Half
  persistent : Persistent
  lifetime : Lifetime
  reportOutstanding : Bool
  snapshot : Option (List Count)
  clearPending : Bool
  pagesInQueue : Nat
  pagesLost : Bool
  deriving DecidableEq, Repr

/-- The live counters of a head's blocks (pages 0 to 3 of section 10.4). -/
structure HeadCounters where
  sealsGood : Count
  sealsNotGood : Count
  voids : Count
  cycleAborts : Count
  pitchLoss : Count
  indexMismatch : Count
  extraMark : Count
  rosterStale : Count
  valveFaults : Count
  underflushes : Count
  badSamples : Count
  driveTimeouts : Count
  feedbackLosses : Count
  verdictsUnanswered : Count
  verdictsUnmatched : Count
  deriving DecidableEq, Repr

/-- The live counters of the check node's blocks (pages 0 to 3 of section 10.4). -/
structure CheckCounters where
  accepts : Count
  rejects : Count
  unmeasured : Count
  deviations : Count
  duplicates : Count
  gapsInserted : Count
  orderFaults : Count
  transitOverflows : Count
  voidsRetired : Count
  gapsEmpty : Count
  missingSeals : Count
  strays : Count
  orphanReadings : Count
  rejectOverflows : Count
  lineStops : Count
  deriving DecidableEq, Repr

/-- The live counters of the link controller (page 4 of section 10.4). -/
structure LinkCounters where
  txErrors : Count
  txDropped : Count
  linkDropped : Count
  rxErrors : Count
  deriving DecidableEq, Repr

/-- Every live counter of the node; `refused` is COMMANDS_REFUSED. -/
structure Counters where
  head : HeadCounters
  check : CheckCounters
  link : LinkCounters
  refused : Count
  deriving DecidableEq, Repr

/-! ### Pitch tracker (Chapter 1) -/

/-- The lock states of section 1.1. -/
inductive LockState where
  | acquire
  | locked
  | stopped
  deriving DecidableEq, Repr

/-- The pitch tracker (section 1.1). -/
structure Tracker where
  pocket : Nat
  revolution : Half
  indexKnown : Bool
  pitch : Option Nat
  tLast : Option Time
  lastPulse : Option Time
  markTaken : Bool
  lock : LockState
  inWindow : Nat
  miss : Nat
  phase : Nat
  deriving DecidableEq, Repr

/-- The zone boundaries of section 1.6. -/
inductive Boundary where
  | infeed
  | pick
  | flushStart
  | applyStart
  | flushEnd
  | applyEnd
  | release
  deriving DecidableEq, Repr

/-! ### Cycle sequencer (Chapter 2) -/

/-- The sub-phase a CLOSING cycle carries. -/
inductive SubPhase where
  | seek
  | tighten
  | dwell
  deriving DecidableEq, Repr

/-- The cycle states of section 2.2. -/
inductive CycleState where
  | idle
  | loading
  | primed
  | flushing
  | closing (sub : SubPhase)
  | ended
  deriving DecidableEq, Repr

/-- Where the record's temperature came from (R28). -/
inductive TempSource where
  | sensor
  | default
  deriving DecidableEq, Repr

/-- Flush-end causes with their codes 0 to 5 (section 2.3). -/
inductive FlushEnd where
  | none
  | target
  | zoneEnd
  | engage
  | abort
  | valve
  deriving DecidableEq, Repr

/-- The steam result (R56). -/
inductive SteamResult where
  | none
  | full
  | underflush
  deriving DecidableEq, Repr

/-- Cap verdicts with their codes 0 to 11 (section 2.3). -/
inductive CapVerdict where
  | good
  | cross
  | skip
  | noEngage
  | unfinished
  | slipped
  | noCap
  | feedbackLost
  | aborted
  | heldOut
  | unsynced
  | driveDown
  deriving DecidableEq, Repr

/-- Abort causes with their codes 1 to 4 (section 2.3). -/
inductive AbortCause where
  | runOff
  | pitch
  | index
  | power
  deriving DecidableEq, Repr

/-- The reason a no-jar record gives in its VOID (R24). -/
inductive VoidReason where
  | noJar
  | lockedEmpty
  deriving DecidableEq, Repr

/-- The pending lock action (R44). -/
inductive LockAction where
  | none
  | lock
  | restore
  deriving DecidableEq, Repr

/-- The cycle record of section 2.3. -/
structure Record where
  revolution : Half
  bank : BankId
  jarPresent : Bool
  voidReason : VoidReason
  temperature : Option Nat
  tempSource : Option TempSource
  tempClamped : Bool
  trimSnapshot : Option Nat
  target : Option Nat
  dose : Nat
  flushEnd : FlushEnd
  steamResult : SteamResult
  valveFault : Bool
  securityAngle : Option Nat
  peakTorque : Torque
  feedbackHeld : Bool
  capVerdict : Option CapVerdict
  abortCause : Option AbortCause
  vPred : Option Nat
  deriving DecidableEq, Repr

/-- The cycle sequencer (section 2.1). -/
structure Sequencer where
  cycle : CycleState
  record : Option Record
  capGate : Bool
  commandedLock : Bool
  selfLock : Bool
  activeBank : BankId
  pendingBank : Option BankId
  pendingLock : LockAction
  lastTemp : Option SensorReading
  /-- The open cycle has reached CLOSING (R36, R39). -/
  reachedClosing : Bool
  deriving DecidableEq, Repr

/-! ### Steam unit (Chapter 3) -/

/-- The valve states of section 3.1. -/
inductive ValveState where
  | shut
  | opening
  | opened
  | shutting
  | faultOpen
  | faultShut
  deriving DecidableEq, Repr

/-- The flush of the present cycle (section 3.1). -/
inductive FlushState where
  | none
  | opened
  | ended
  deriving DecidableEq, Repr

/-- The state of a roster entry; the expiry time is present only while OPEN (section 3.4). -/
inductive RosterState where
  | closed
  | opened (expiry : Time)
  | stuck
  deriving DecidableEq, Repr

/-- One entry of the flush roster. -/
structure RosterEntry where
  peer : Nat
  state : RosterState
  deriving DecidableEq, Repr

/-- The steam unit (section 3.1). -/
structure Steam where
  valve : ValveState
  commandOpen : Bool
  /-- The settle timer: stopped, or its start time (R46). -/
  settle : Option Time
  flush : FlushState
  attached : Bool
  target : Option Nat
  dose : Nat
  /-- The dose tick train: stopped, or the time of its next tick (R63). -/
  ticks : Option Time
  roster : List RosterEntry
  deriving DecidableEq, Repr

/-! ### Closing unit (Chapter 4) -/

/-- The closing states of section 4.1. -/
inductive ClosingState where
  | free
  | seek
  | tighten
  | dwell
  | parked
  deriving DecidableEq, Repr

/-- The drive commands with their arguments (R72). -/
inductive DriveCommand where
  | spin (rpm : Nat)
  | hold (limit : Nat)
  | stop
  | freewheel
  deriving DecidableEq, Repr

/-- The closing limits taken from a bank at the start of a closing (R73). -/
structure ClosingLimits where
  tEngage : Nat
  tFinal : Nat
  tHold : Nat
  spinSpeed : Nat
  sMax : Nat
  aMin : Nat
  aMax : Nat
  deriving DecidableEq, Repr

/-- The closing unit (section 4.1). -/
structure Closing where
  phase : ClosingState
  command : DriveCommand
  limits : Option ClosingLimits
  angle : BitVec 32
  prevAngle : Option Half
  engageAngle : Option (BitVec 32)
  slip : Nat
  peak : Torque
  peakTaken : Bool
  lastTorque : Option Torque
  lastAngle : Option Half
  badRun : Nat
  ready : Bool
  deadline : Time
  /-- What the unit put on the drive line while the last command was handled, oldest first: the model's
  own view of the output of R72 (log 11). -/
  sent : List DriveCommand
  deriving DecidableEq, Repr

/-! ### Verdict list (Chapter 7) -/

/-- The summary of one posted SEAL (section 7.1). -/
structure Summary where
  revolution : Half
  bank : BankId
  capVerdict : CapVerdict
  vPred : Option Nat
  dose : Nat
  deriving DecidableEq, Repr

/-- The verdict list (section 7.1), oldest entry first. -/
structure VerdictList where
  awaited : List Summary
  trims : PerBank Nat
  goodRun : PerBank Nat
  degraded : PerBank Bool
  deriving DecidableEq, Repr

/-! ### Station link controller (Chapter 6) -/

/-- The link states of section 6.1. -/
inductive LinkState where
  | starting
  | active
  | mute
  | off
  deriving DecidableEq, Repr

/-- VALVE-FAULT states 1 to 3 (section 6.7). -/
inductive ValveFaultState where
  | stuckOpen
  | stuckShut
  | cleared
  deriving DecidableEq, Repr

/-- STATE notices with their details (section 6.7). -/
inductive StateNotice where
  | bankChanged (bank : BankId)
  | headLocked (detail : Byte)
  | headUnlocked
  | degraded (bank : BankId)
  | recovered (bank : BankId)
  | sensorFallback
  | sensorOk
  | stop (detail : Byte)
  | stopReleased
  deriving DecidableEq, Repr

/-- The notices an SN416 node posts (section 6.7); COMMAND is posted by line controllers alone. -/
inductive Notice where
  | steamOpen
  | steamShut
  | valveFault (state : ValveFaultState)
  | sealed (payload : SealPayload)
  | void (payload : VoidPayload)
  | verdict (payload : VerdictPayload)
  | state (what : StateNotice)
  | join (payload : JoinPayload)
  | report (page : Nat) (c1 c2 c3 c4 : Count)
  deriving DecidableEq, Repr

/-- An entry of the transmit queue, and whether it is the entry in flight (section 6.1). -/
structure QueueEntry where
  notice : Notice
  inFlight : Bool
  deriving DecidableEq, Repr

/-- The station link controller (section 6.1), the queue in queue order. -/
structure Link where
  state : LinkState
  queue : List QueueEntry
  errors : Nat
  /-- MUTE is due when the frame on the wire ends (R109, log 15). -/
  mutePending : Bool
  /-- The bits of the frame last started, dominant as false (R105). -/
  wire : List Bool
  /-- A STEAM-OPEN has been offered during the frame of the STEAM-SHUT in flight (row 4 of R118). -/
  shutOvertaken : Bool
  deriving DecidableEq, Repr

/-! ### Transit tracker (Chapter 8) -/

/-- What a transit entry of kind SEAL holds besides its expected position (section 8.1). -/
structure SealEntry where
  head : Nat
  revolution : Half
  capVerdict : BitVec 4
  vPred : Nat
  bank : BankId
  sigMatch : Bool
  deriving DecidableEq, Repr

/-- An entry of the transit list (section 8.1). -/
inductive TransitEntry where
  | sealed (e : SealEntry) (expected : Position)
  | void (head : Nat) (revolution : Half) (expected : Position)
  | gap (head : Nat) (expected : Position)
  deriving DecidableEq, Repr

/-- The transit tracker (section 8.1), the list front first. -/
structure Transit where
  position : Position
  entries : List TransitEntry
  nextPocket : Option Nat
  lastRev : List (Option Half)
  deriving DecidableEq, Repr

/-! ### Reject unit (Chapter 9) -/

/-- A matched entry as the reject unit holds it: a SEAL or a GAP with its fields, the expected position among
them (R150, table 8.1). -/
inductive Matched where
  | sealed (e : SealEntry) (expected : Position)
  | gap (head : Nat) (expected : Position)
  deriving DecidableEq, Repr

/-- The reading slot (section 9.1). -/
inductive Slot where
  | empty
  | held (e : Matched) (x : Position)
  | stray (x : Position)
  deriving DecidableEq, Repr

/-- The reject unit (section 9.1), the queue front first. -/
structure RejectUnit where
  slot : Slot
  noReading : Nat
  fallback : Bool
  queue : List Position
  output : Bool
  pulseEnd : Option Time
  consecutive : Nat
  stop : Bool
  deriving DecidableEq, Repr

/-! ### The whole node -/

/-- The state of the SN416. -/
structure State where
  /-- The commands that wait, first in, first out. -/
  pending : List Instr
  timeBase : Time
  pins : Pins
  node : Node
  memory : Memory
  config : ConfigUnit
  counters : Counters
  tracker : Tracker
  seq : Sequencer
  steam : Steam
  closing : Closing
  verdicts : VerdictList
  link : Link
  transit : Transit
  reject : RejectUnit
  deriving DecidableEq, Repr

/-- Why the block could stop with a fault. The spec gives the SN416 no fault that stops it: every error
condition it names is state (a counter, a verdict, HALTED, MUTE, a fault state of the valve). So this
type has no constructor and no command faults. -/
inductive Fault where
  deriving DecidableEq, Repr

/-- Why a command could be refused. No command of this model is refused. -/
inductive Refusal where
  /-- Raised by an arm of `exec` whose command has no meaning yet; safe, since nothing is claimed. No arm
  raises it. -/
  | notModelled (mnemonic : String)
  deriving DecidableEq, Repr

/-! ### Reset values -/

/-- The same value for every bank. -/
def PerBank.all {α : Type} (a : α) : PerBank α := ⟨a, a, a, a⟩

/-- A bank copy before the memory has been read (DESIGN CHOICE, log 7). -/
def Bank.unread : Bank :=
  { marker := 0, doseTarget := 0, trimStep := 0, trimMax := 0, trimMargin := 0, defaultTemp := 0,
    tEngage := 0, tFinal := 0, tHold := 0, spinSpeed := 0, sMax := 0, aMin := 0, aMax := 0, tCool := 0,
    vMin := 0, fallbackMargin := 0, deviation := 0, purge := List.replicate 8 (0, 0), d0 := 0, gain := 0 }

/-- The header copy before the memory has been read (DESIGN CHOICE, log 7). -/
def Header.unread : Header :=
  { formatId := 0, n := 0, pick := 0, flushStart := 0, applyStart := 0, flushEnd := 0, applyEnd := 0,
    release := 0, k := 0, qn := 0, settleMs := 0, rosterMs := 0, pAmb := 0, initialBank := 0,
    dTravel := 0, w := 0, rRead := 0, gGate := 0, pulseMs := 0, nStop := 0, m := 0,
    storedSignature := 0 }

/-- Lifetime counters at 0 (R176, R184). -/
def Lifetime.zero : Lifetime := ⟨0, 0, 0, 0⟩

/-- The configuration unit after reset (section 10.2; copies of the memory: log 7). -/
def ConfigUnit.reset : ConfigUnit :=
  { header := Header.unread, banks := PerBank.all Bank.unread, usable := PerBank.all false,
    signature := 0,
    persistent := { marker := 0, activeBank := 0, trims := PerBank.all 0, lifetime := Lifetime.zero },
    lifetime := Lifetime.zero, reportOutstanding := false, snapshot := none, clearPending := false,
    pagesInQueue := 0, pagesLost := false }

/-- Every live counter at 0 (R1, R19, R45, R68, R104, R121, R135, R156, section 10.2). -/
def Counters.zero : Counters :=
  { head := ⟨0, 0, 0, 0, 0, 0, 0, 0, 0, 0, 0, 0, 0, 0, 0⟩,
    check := ⟨0, 0, 0, 0, 0, 0, 0, 0, 0, 0, 0, 0, 0, 0, 0⟩,
    link := ⟨0, 0, 0, 0⟩, refused := 0 }

/-- The table of section 1.1. -/
def Tracker.reset : Tracker :=
  { pocket := 0, revolution := 0, indexKnown := false, pitch := none, tLast := none, lastPulse := none,
    markTaken := false, lock := .acquire, inWindow := 0, miss := 0, phase := 0 }

/-- The table of section 2.1 (the active bank before R184 hands one over: log 7). -/
def Sequencer.reset : Sequencer :=
  { cycle := .idle, record := none, capGate := false, commandedLock := false, selfLock := false,
    activeBank := 0, pendingBank := none, pendingLock := .none, lastTemp := none,
    reachedClosing := false }

/-- The table of section 3.1. -/
def Steam.reset : Steam :=
  { valve := .shut, commandOpen := false, settle := none, flush := .none, attached := false,
    target := none, dose := 0, ticks := none, roster := [] }

/-- The table of section 4.1 (the deadline before R68 sets it: log 7). -/
def Closing.reset : Closing :=
  { phase := .free, command := .freewheel, limits := none, angle := 0, prevAngle := none,
    engageAngle := none, slip := 0, peak := 0, peakTaken := false, lastTorque := none,
    lastAngle := none, badRun := 0, ready := false, deadline := 0, sent := [] }

/-- The table of section 7.1. -/
def VerdictList.reset : VerdictList :=
  { awaited := [], trims := PerBank.all 0, goodRun := PerBank.all 0, degraded := PerBank.all false }

/-- The table of section 6.1. -/
def Link.reset : Link :=
  { state := .starting, queue := [], errors := 0, mutePending := false, wire := [], shutOvertaken := false }

/-- The table of section 8.1. -/
def Transit.reset : Transit :=
  { position := 0, entries := [], nextPocket := none, lastRev := [] }

/-- The table of section 9.1. -/
def RejectUnit.reset : RejectUnit :=
  { slot := .empty, noReading := 0, fallback := false, queue := [], output := false, pulseEnd := none,
    consecutive := 0, stop := false }

/-- The node at step 1 of the start sequence, straps not read yet (R183; log 7). -/
def Node.reset : Node :=
  { mode := .start, awaitingCrystal := false, onCrystal := false, role := .head, address := 0,
    cause := .power, unclean := false, configBad := false, strapsBad := false, saving := [] }

/-- The node right after a power-on reset, before its start sequence has run (R183). The sequence itself
is the meaning of the reset commands (log 20). -/
def State.reset : State :=
  { pending := [], timeBase := 0,
    pins := { run := false, pwarn := false, valveOpen := false, jarPresent := false, capPresent := false },
    node := Node.reset, memory := [], config := ConfigUnit.reset, counters := Counters.zero,
    tracker := Tracker.reset, seq := Sequencer.reset, steam := Steam.reset, closing := Closing.reset,
    verdicts := VerdictList.reset, link := Link.reset, transit := Transit.reset,
    reject := RejectUnit.reset }

end Sys2Proof.Machine
end

