-- ==== Sys2Proof/Machine/Memory.lean ====
section
/-! DEFINITION. The external configuration memory of 2048 bytes (10.1), as a canonical list. -/

namespace Sys2Proof.Machine

/-- The canonical form: addresses strictly rising and below 2048, no byte listed that an unlisted address
reads as. -/
abbrev Memory.wf (m : Memory) : Prop :=
  m.Pairwise (fun c d => c.1 < d.1) ∧ ∀ c ∈ m, c.2 ≠ Config.erasedByte ∧ c.1 < Config.memoryBytes

/-- The byte at an address. -/
def Memory.read : Memory → Nat → Byte
  | [], _ => Config.erasedByte
  | c :: m, a => if a = c.1 then c.2 else Memory.read m a

/-- Store a byte; storing what an unlisted address reads as removes the entry. -/
def Memory.write : Memory → Nat → Byte → Memory
  | [], a, v => if v = Config.erasedByte then [] else [(a, v)]
  | c :: m, a, v =>
    if a < c.1 then (if v = Config.erasedByte then c :: m else (a, v) :: c :: m)
    else if a = c.1 then (if v = Config.erasedByte then m else (a, v) :: m)
    else c :: Memory.write m a v

/-- Store bytes one after another. -/
def Memory.writeAll (m : Memory) (ws : List (Nat × Byte)) : Memory :=
  ws.foldl (fun m w => Memory.write m w.1 w.2) m

/-- `n` bytes from address `a` of a list whose first entry lies at `a` or above. -/
def Memory.walk : Nat → Nat → Memory → List Byte
  | 0, _, _ => []
  | n + 1, a, [] => Config.erasedByte :: Memory.walk n (a + 1) []
  | n + 1, a, c :: m =>
    if c.1 = a then c.2 :: Memory.walk n (a + 1) m
    else Config.erasedByte :: Memory.walk n (a + 1) (c :: m)

/-- The `n` bytes from address `a` on, in address order. -/
def Memory.slice (m : Memory) (a n : Nat) : List Byte :=
  Memory.walk n a (m.dropWhile fun c => c.1 < a)

end Sys2Proof.Machine
end

