-- ==== Sys2Proof/Machine/Ops.lean ====
section
/-! DEFINITION. The named operations every block uses: replacing one part of the state, the counters, the
per-bank tables, the moment a command is taken, and the conditions under which a role's blocks take
events. Taking an exception has no counterpart here: the block has no exception entry. -/

namespace Sys2Proof.Machine

/-! ### Per-bank tables -/

/-- The value of bank `b`. -/
def PerBank.get {α : Type} (t : PerBank α) (b : BankId) : α :=
  match b.toNat with
  | 0 => t.b0
  | 1 => t.b1
  | 2 => t.b2
  | _ => t.b3

/-- The table with the value of bank `b` replaced. -/
def PerBank.set {α : Type} (t : PerBank α) (b : BankId) (a : α) : PerBank α :=
  match b.toNat with
  | 0 => { t with b0 := a }
  | 1 => { t with b1 := a }
  | 2 => { t with b2 := a }
  | _ => { t with b3 := a }

/-- A function applied to the values of two tables bank by bank. -/
def PerBank.zip {α β γ : Type} (f : α → β → γ) (t : PerBank α) (u : PerBank β) : PerBank γ :=
  ⟨f t.b0 u.b0, f t.b1 u.b1, f t.b2 u.b2, f t.b3 u.b3⟩

/-- A function applied to every bank's value. -/
def PerBank.map {α β : Type} (f : α → β) (t : PerBank α) : PerBank β :=
  ⟨f t.b0, f t.b1, f t.b2, f t.b3⟩

/-! ### Replacing one part of the state -/

/-- The state with its pins replaced. -/
def State.withPins (s : State) (x : Pins) : State := { s with pins := x }
/-- The state with its node part replaced. -/
def State.withNode (s : State) (x : Node) : State := { s with node := x }
/-- The state with its configuration memory replaced. -/
def State.withMemory (s : State) (x : Memory) : State := { s with memory := x }
/-- The state with its configuration unit replaced. -/
def State.withConfig (s : State) (x : ConfigUnit) : State := { s with config := x }
/-- The state with its live counters replaced. -/
def State.withCounters (s : State) (x : Counters) : State := { s with counters := x }
/-- The state with its pitch tracker replaced. -/
def State.withTracker (s : State) (x : Tracker) : State := { s with tracker := x }
/-- The state with its cycle sequencer replaced. -/
def State.withSeq (s : State) (x : Sequencer) : State := { s with seq := x }
/-- The state with its steam unit replaced. -/
def State.withSteam (s : State) (x : Steam) : State := { s with steam := x }
/-- The state with its closing unit replaced. -/
def State.withClosing (s : State) (x : Closing) : State := { s with closing := x }
/-- The state with its verdict list replaced. -/
def State.withVerdicts (s : State) (x : VerdictList) : State := { s with verdicts := x }
/-- The state with its link controller replaced. -/
def State.withLink (s : State) (x : Link) : State := { s with link := x }
/-- The state with its transit tracker replaced. -/
def State.withTransit (s : State) (x : Transit) : State := { s with transit := x }
/-- The state with its reject unit replaced. -/
def State.withReject (s : State) (x : RejectUnit) : State := { s with reject := x }

/-! ### Counters -/

/-- Change the live counters of a head's blocks. -/
def State.countHead (s : State) (f : HeadCounters → HeadCounters) : State :=
  s.withCounters { s.counters with head := f s.counters.head }

/-- Change the live counters of the check node's blocks. -/
def State.countCheck (s : State) (f : CheckCounters → CheckCounters) : State :=
  s.withCounters { s.counters with check := f s.counters.check }

/-- Change the live counters of the link controller. -/
def State.countLink (s : State) (f : LinkCounters → LinkCounters) : State :=
  s.withCounters { s.counters with link := f s.counters.link }

/-- Count a refused COMMAND (R177). -/
def State.refuseCommand (s : State) : State :=
  s.withCounters { s.counters with refused := s.counters.refused + 1 }

/-- Change the lifetime counters (R176). -/
def State.countLifetime (s : State) (f : Lifetime → Lifetime) : State :=
  s.withConfig { s.config with lifetime := f s.config.lifetime }

/-- The 20 live counters of a role in page order (section 10.4). -/
def Counters.live (c : Counters) : Role → List Count
  | .head =>
    [c.head.sealsGood, c.head.sealsNotGood, c.head.voids, c.head.cycleAborts,
     c.head.pitchLoss, c.head.indexMismatch, c.head.extraMark, c.head.rosterStale,
     c.head.valveFaults, c.head.underflushes, c.head.badSamples, c.head.driveTimeouts,
     c.head.feedbackLosses, c.head.verdictsUnanswered, c.head.verdictsUnmatched, c.refused,
     c.link.txErrors, c.link.txDropped, c.link.linkDropped, c.link.rxErrors]
  | .check =>
    [c.check.accepts, c.check.rejects, c.check.unmeasured, c.check.deviations,
     c.check.duplicates, c.check.gapsInserted, c.check.orderFaults, c.check.transitOverflows,
     c.check.voidsRetired, c.check.gapsEmpty, c.check.missingSeals, c.check.strays,
     c.check.orphanReadings, c.check.rejectOverflows, c.check.lineStops, c.refused,
     c.link.txErrors, c.link.txDropped, c.link.linkDropped, c.link.rxErrors]

/-- The live counters of a role less a snapshot of them, each modulo 2^32 (R181). -/
def Counters.less (c : Counters) (role : Role) (snap : List Count) : Counters :=
  let v := fun i => snap.getD i 0
  let link : LinkCounters :=
    { txErrors := c.link.txErrors - v 16, txDropped := c.link.txDropped - v 17,
      linkDropped := c.link.linkDropped - v 18, rxErrors := c.link.rxErrors - v 19 }
  match role with
  | .head =>
    { c with
      head :=
        { sealsGood := c.head.sealsGood - v 0, sealsNotGood := c.head.sealsNotGood - v 1,
          voids := c.head.voids - v 2, cycleAborts := c.head.cycleAborts - v 3,
          pitchLoss := c.head.pitchLoss - v 4, indexMismatch := c.head.indexMismatch - v 5,
          extraMark := c.head.extraMark - v 6, rosterStale := c.head.rosterStale - v 7,
          valveFaults := c.head.valveFaults - v 8, underflushes := c.head.underflushes - v 9,
          badSamples := c.head.badSamples - v 10, driveTimeouts := c.head.driveTimeouts - v 11,
          feedbackLosses := c.head.feedbackLosses - v 12,
          verdictsUnanswered := c.head.verdictsUnanswered - v 13,
          verdictsUnmatched := c.head.verdictsUnmatched - v 14 }
      refused := c.refused - v 15
      link := link }
  | .check =>
    { c with
      check :=
        { accepts := c.check.accepts - v 0, rejects := c.check.rejects - v 1,
          unmeasured := c.check.unmeasured - v 2, deviations := c.check.deviations - v 3,
          duplicates := c.check.duplicates - v 4, gapsInserted := c.check.gapsInserted - v 5,
          orderFaults := c.check.orderFaults - v 6,
          transitOverflows := c.check.transitOverflows - v 7,
          voidsRetired := c.check.voidsRetired - v 8, gapsEmpty := c.check.gapsEmpty - v 9,
          missingSeals := c.check.missingSeals - v 10, strays := c.check.strays - v 11,
          orphanReadings := c.check.orphanReadings - v 12,
          rejectOverflows := c.check.rejectOverflows - v 13,
          lineStops := c.check.lineStops - v 14 }
      refused := c.refused - v 15
      link := link }

/-! ### Roles and node states -/

/-- The blocks of the HEAD role take events (11.1). -/
def State.headRuns (s : State) : Bool := s.node.mode == .operating && s.node.role == .head

/-- The blocks of the CHECK role take events (11.1). -/
def State.checkRuns (s : State) : Bool := s.node.mode == .operating && s.node.role == .check

/-- The head's own pocket, its strapped address (R1). -/
def State.own (s : State) : Nat := s.node.address.toNat

/-- The bank a record or entry names. -/
def State.bankOf (s : State) (b : BankId) : Bank := s.config.banks.get b

/-- Write the open cycle's record, if there is one (section 2.3). -/
def State.onRecord (s : State) (f : Record → Record) : State :=
  s.withSeq { s.seq with record := s.seq.record.map f }

/-! ### Outputs -/

/-- The line-stop output follows the stop latch (section 9.1). -/
def State.lineStop (s : State) : Bool := s.reject.stop

/-- The LAMP output (R188): the node is HALTED, the link MUTE or OFF, a head's self-lock set, or the
check node's stop latch set. -/
def State.lamp (s : State) : Bool :=
  s.node.mode == .halted || s.link.state == .mute || s.link.state == .off || s.seq.selfLock
    || s.reject.stop

/-! ### The position and the moment a command is taken (R15 to R18) -/

/-- The header's six boundaries with their positions, in the order of section 1.6; INFEED stands at 0. -/
def Header.boundaries (h : Header) : List (Boundary × Nat) :=
  [(.pick, h.pick), (.flushStart, h.flushStart), (.applyStart, h.applyStart),
   (.flushEnd, h.flushEnd), (.applyEnd, h.applyEnd), (.release, h.release)]

/-- The pocket offset k: whole pockets since the head's own pocket passed the sensor (R16). -/
def pocketOffset (n own pocket : Nat) : Nat := (pocket + n - own) % n

/-- The position ((pocket counter − own pocket) mod N) × 256 + phase, which exists while the index is
known (R16). -/
def State.position (s : State) : Nat :=
  pocketOffset s.config.header.n s.own s.tracker.pocket * 256 + s.tracker.phase

/-- The boundaries above an old position and at or below a new one, in order (R17, R18). -/
def Header.reachedBetween (h : Header) (old new : Nat) : List Boundary :=
  (h.boundaries.filter fun b => decide (old < b.2 ∧ b.2 ≤ new)).map Prod.fst

/-- The interpolated phase at a time-base value (R15). A signed elapsed time below 0 means that the time
base has wrapped past t_last, by when the phase stands at 255; the phase never falls between pulses. -/
def Tracker.phaseAt (tr : Tracker) (now : Time) : Nat :=
  match tr.lock, tr.pitch, tr.tLast with
  | .acquire, some e, some t0 | .locked, some e, some t0 =>
    let elapsed := since now t0
    if elapsed < 0 then 255 else max tr.phase (min 255 (elapsed.toNat * 256 / e))
  | _, _, _ => tr.phase

/-- The phase at a time-base value while boundaries that it has come to have not been handed to the
sequencer: it stands just below the first of them (log 4). -/
def State.heldPhase (s : State) (now : Time) : Nat :=
  let new := s.tracker.phaseAt now
  if s.tracker.indexKnown then
    let base := pocketOffset s.config.header.n s.own s.tracker.pocket * 256
    let due := s.config.header.boundaries.filter
      fun b => decide (base + s.tracker.phase < b.2 ∧ b.2 ≤ base + new)
    match due with
    | [] => new
    | b :: _ => b.2 - base - 1
  else new

/-- A command is taken at the time-base value `t`: the time base stands at `t`, the phase has moved on to
its value there (R15), and nothing has yet been sent on the drive line in this command (log 1, 4, 11). -/
def State.enter (s : State) (t : Time) : State :=
  let s := { s with timeBase := t, closing := { s.closing with sent := [] } }
  if s.headRuns then s.withTracker { s.tracker with phase := s.heldPhase t } else s

end Sys2Proof.Machine
end

