-- ==== Sys2Proof/Machine/Operands.lean ====
section
/-! DEFINITION. How operands are read: drive samples, sensor readings, COMMAND masks, and the codes and
payload bytes of notices (section 6.7). -/

namespace Sys2Proof.Machine

/-! ### The drive line -/

/-- The status bit of a drive sample. DESIGN CHOICE (log 10): the manual does not give the level; FAULT
is taken as 1. Unsafe. -/
def driveStatusBit : DriveStatus → Bool
  | .ok => false
  | .fault => true

/-- The parity check of R69: torque bits, angle bits, status bit and parity bit together hold an even
number of 1 bits. The torque is read as 12 bits in two's complement (DEDUCED from its range, log 10). -/
def sampleParityEven (d : DriveSample) : Bool :=
  onesIn (bitsOf 12 d.torque.toNat ++ bitsOf 16 d.angle.toNat ++ [driveStatusBit d.status, d.parity])
    % 2 == 0

/-- A sample is good when its parity check passes and its status is OK (R69). -/
def sampleGood (d : DriveSample) : Bool := sampleParityEven d && d.status == .ok

/-! ### Sensor readings -/

/-- A temperature reading clamped to 0..1000 tenths of a degree (R28). -/
def clampTemperature (x : Int) : Nat := clampNat 0 1000 x

/-- A panel deflection clamped to −2000..2000 µm (R102). -/
def clampDeflection (x : Int) : Int := max (-2000) (min 2000 x)

/-! ### COMMAND notices -/

/-- The mask bit of value 2^a stands for address a (section 6.7). -/
def maskNames (mask : BitVec 32) (a : Address) : Bool := mask.getLsbD a.toNat

/-- The addresses of line controllers (00_scope.md, Stations and addresses). -/
def isController (a : Address) : Bool := a == 30#5 || a == 31#5

/-! ### Codes -/

/-- The codes of section 2.3 (cap verdict). -/
def CapVerdict.code : CapVerdict → Nat
  | .good => 0
  | .cross => 1
  | .skip => 2
  | .noEngage => 3
  | .unfinished => 4
  | .slipped => 5
  | .noCap => 6
  | .feedbackLost => 7
  | .aborted => 8
  | .heldOut => 9
  | .unsynced => 10
  | .driveDown => 11

/-- The codes of section 2.3 (flush-end cause). -/
def FlushEnd.code : FlushEnd → Nat
  | .none => 0
  | .target => 1
  | .zoneEnd => 2
  | .engage => 3
  | .abort => 4
  | .valve => 5

/-- The codes of section 2.3 (abort cause), 0 when absent (R37). -/
def abortCode : Option AbortCause → Nat
  | none => 0
  | some .runOff => 1
  | some .pitch => 2
  | some .index => 3
  | some .power => 4

/-- The reason of a VOID (R37). -/
def VoidReason.code : VoidReason → Byte
  | .noJar => 0
  | .lockedEmpty => 1

/-- The fault states of VALVE-FAULT (section 6.7). -/
def ValveFaultState.code : ValveFaultState → Byte
  | .stuckOpen => 1
  | .stuckShut => 2
  | .cleared => 3

/-- The reset causes of JOIN (section 6.7). -/
def ResetCause.code : ResetCause → Byte
  | .power => 0
  | .pin => 1
  | .warnRecovery => 2

/-- The role byte of JOIN (section 6.7). -/
def Role.code : Role → Byte
  | .head => 0
  | .check => 1

/-- A bank number as a payload byte. -/
def bankByte (b : BankId) : Byte := BitVec.ofNat 8 b.toNat

/-- The detail of HEAD_LOCKED: 1 COMMAND, 2 SELF, 3 BOTH (R22, section 6.7). -/
def lockDetail (commanded self : Bool) : Byte :=
  if commanded && self then 3 else if self then 2 else 1

/-- The two payload bytes of a STATE notice: code and detail (section 6.7). -/
def StateNotice.bytes : StateNotice → List Byte
  | .bankChanged b => [1, bankByte b]
  | .headLocked d => [2, d]
  | .headUnlocked => [3, 0]
  | .degraded b => [4, bankByte b]
  | .recovered b => [5, bankByte b]
  | .sensorFallback => [6, 0]
  | .sensorOk => [7, 0]
  | .stop d => [8, d]
  | .stopReleased => [9, 0]

/-- The kind code of a notice (section 6.7). -/
def Notice.kind : Notice → Nat
  | .steamOpen => 1
  | .steamShut => 2
  | .valveFault _ => 3
  | .sealed _ => 5
  | .void _ => 6
  | .verdict _ => 7
  | .state _ => 8
  | .join _ => 9
  | .report _ _ _ _ _ => 10

/-- The 17 payload bytes of a SEAL, its spare bits 0 (section 6.7). -/
def sealBytes (p : SealPayload) : List Byte :=
  bytesOfHalf p.revolution
    ++ [BitVec.ofNat 8 (p.bank.toNat * 64 + p.capVerdict.toNat), p.flags, p.detail]
    ++ bytesOfHalf p.securityAngle ++ bytesOfHalf p.peakTorque ++ bytesOfHalf p.dose
    ++ bytesOfHalf p.temperature ++ bytesOfHalf p.vPred ++ bytesOfHalf p.signature

/-- The payload bytes of a notice (section 6.7). -/
def Notice.payload : Notice → List Byte
  | .steamOpen => []
  | .steamShut => []
  | .valveFault f => [f.code]
  | .sealed p => sealBytes p
  | .void p => bytesOfHalf p.revolution ++ [p.reason]
  | .verdict p => [p.head] ++ bytesOfHalf p.revolution ++ [p.code, p.flags] ++ bytesOfHalf p.vMeas
  | .state w => w.bytes
  | .join p => [p.role, p.cause] ++ bytesOfHalf p.signature ++ [p.activeBank, p.flags]
  | .report page c1 c2 c3 c4 =>
    [BitVec.ofNat 8 page] ++ bytesOfCount c1 ++ bytesOfCount c2 ++ bytesOfCount c3 ++ bytesOfCount c4

end Sys2Proof.Machine
end

