-- ==== Sys2Proof/Machine/Flags.lean ====
section
/-! DEFINITION. The flag and detail bytes that notices carry (R37, R162, R185), and the notices that are
formed whole from the state. -/

namespace Sys2Proof.Machine

/-- The SEAL flags of R37, under the trim max of the record's bank. -/
def sealFlags (r : Record) (trimMax : Nat) : Byte :=
  flagByte (r.steamResult == .underflush) r.tempClamped (r.tempSource == some .default)
    r.feedbackHeld r.valveFault (r.trimSnapshot == some trimMax) (r.dose == 0) false

/-- The SEAL detail byte: flush-end cause in bits 7..5, abort cause in bits 4..2 (section 6.7). -/
def sealDetail (r : Record) : Byte :=
  BitVec.ofNat 8 (r.flushEnd.code * 32 + abortCode r.abortCause * 4)

/-- The SEAL of a record (R37): absent values are sent as 65535 (security angle) or 0. A record posted
without a cap verdict does not occur; its code would be that of ABORTED (log 13). -/
def sealOf (r : Record) (trimMax : Nat) (signature : Half) : SealPayload :=
  { revolution := r.revolution
    bank := r.bank
    capVerdict := BitVec.ofNat 4 (r.capVerdict.getD .aborted).code
    flags := sealFlags r trimMax
    detail := sealDetail r
    securityAngle := BitVec.ofNat 16 (r.securityAngle.getD 65535)
    peakTorque := r.peakTorque.signExtend 16
    dose := BitVec.ofNat 16 r.dose
    temperature := BitVec.ofNat 16 (r.temperature.getD 0)
    vPred := BitVec.ofNat 16 (r.vPred.getD 0)
    signature := signature }

/-- The VOID of a no-jar record (R37). -/
def voidOf (r : Record) : VoidPayload := { revolution := r.revolution, reason := r.voidReason.code }

/-- The VERDICT flags of R162. -/
def verdictFlags (deviate unmeasured fallback : Bool) : Byte :=
  flagByte deviate unmeasured fallback false false false false false

/-- The JOIN flags of R185. -/
def joinFlags (n : Node) : Byte :=
  flagByte n.unclean n.configBad n.strapsBad false false false false false

/-- The node goes HALTED: a header failure or a designation error was found (R183 step 8). -/
def Node.halts (n : Node) : Bool := n.configBad || n.strapsBad

/-- The JOIN of R185. -/
def State.joinNotice (s : State) : Notice :=
  .join
    { role := s.node.role.code
      cause := s.node.cause.code
      signature := s.config.signature
      activeBank :=
        if s.node.role == .head && !s.node.halts then bankByte s.seq.activeBank else 0
      flags := joinFlags s.node }

/-- One page of a report: its four values from the snapshot (section 10.4). Page 5 carries a snapshot of
four, the others a snapshot of twenty. -/
def reportPage (page : Nat) (snap : List Count) : Notice :=
  let base := if page = 5 then 0 else page * 4
  .report page (snap.getD base 0) (snap.getD (base + 1) 0) (snap.getD (base + 2) 0)
    (snap.getD (base + 3) 0)

end Sys2Proof.Machine
end

