-- ==== Sys2Proof/Machine/Frame.lean ====
section
/-! DEFINITION. The frame on the wire (R105, R106) and the tests a receiver makes on one (R111). Bits are
dominant as false and recessive as true. -/

namespace Sys2Proof.Machine

/-- Insert a dominant sync bit after every eighth bit; `k` bits have passed since the last one (R105). -/
def insertSync : Nat → List Bool → List Bool
  | _, [] => []
  | k, b :: bs => if k = 7 then b :: false :: insertSync 0 bs else b :: insertSync (k + 1) bs

/-- The kind, sender, length and payload bits, over which the CRC is formed (R105, R106). -/
def frameCore (kind : Nat) (sender : Address) (payload : List Byte) : List Bool :=
  bitsOf 4 kind ++ bitsOf 5 sender.toNat ++ bitsOf 5 payload.length ++ bitsOfBytes payload

/-- The bits of a frame after its start bit (R105). -/
def frameAfterStart (kind : Nat) (sender : Address) (payload : List Byte) : List Bool :=
  let core := frameCore kind sender payload
  insertSync 0 (core ++ bitsOf 16 (crc16 core).toNat) ++ [true, true]

/-- The whole frame of a notice: a dominant start bit, then the rest (R105). -/
def frameBits (sender : Address) (n : Notice) : List Bool :=
  false :: frameAfterStart n.kind sender n.payload

/-- Why a receiver discards a frame (R111). -/
inductive RxFault where
  | kind
  | length
  | lengthForKind
  | sync
  | endBit
  | crc
  deriving DecidableEq, Repr

/-- What a receiver makes of a frame: discarded, or valid with its kind, sender and payload. -/
inductive RxResult where
  | bad (why : RxFault)
  | valid (kind : Nat) (sender : Address) (payload : List Byte)
  deriving DecidableEq, Repr

/-- The payload length each notice kind requires; other kinds are not notice kinds (section 6.7). -/
def lengthOfKind : Nat → Option Nat
  | 1 => some 0
  | 2 => some 0
  | 3 => some 1
  | 4 => some 6
  | 5 => some 17
  | 6 => some 3
  | 7 => some 7
  | 8 => some 2
  | 9 => some 6
  | 10 => some 17
  | _ => none

/-- Read `n` bits, dropping each sync bit and checking that it is dominant; `k` bits have passed since
the last one. Past the bits given the line reads recessive. None when a sync bit reads recessive. -/
def takeBits : Nat → Nat → List Bool → Option (List Bool × Nat × List Bool)
  | 0, k, bs => some ([], k, bs)
  | n + 1, k, bs =>
    if k = 7 then
      if bs.tail.headD true then none
      else (takeBits n 0 bs.tail.tail).map fun r => (bs.headD true :: r.1, r.2)
    else (takeBits n (k + 1) bs.tail).map fun r => (bs.headD true :: r.1, r.2)

/-- The tests of R111 on the bits after the start bit, in the order in which their bits arrive. -/
def readFrame (bits : List Bool) : RxResult :=
  match takeBits 4 0 bits with
  | none => .bad .sync
  | some (kindBits, k, rest) =>
    match lengthOfKind (natOfBits kindBits) with
    | none => .bad .kind
    | some wanted =>
      match takeBits 10 k rest with
      | none => .bad .sync
      | some (addressing, k, rest) =>
        if 20 < natOfBits (addressing.drop 5) then .bad .length
        else if natOfBits (addressing.drop 5) ≠ wanted then .bad .lengthForKind
        else
          match takeBits (8 * wanted) k rest with
          | none => .bad .sync
          | some (payloadBits, k, rest) =>
            match takeBits 16 k rest with
            | none => .bad .sync
            | some (crcBits, _, rest) =>
              if crc16 (kindBits ++ addressing ++ payloadBits) ≠ BitVec.ofNat 16 (natOfBits crcBits) then
                .bad .crc
              else if rest.headD true && rest.tail.headD true then
                .valid (natOfBits kindBits) (BitVec.ofNat 5 (natOfBits (addressing.take 5)))
                  (bytesOfBits wanted payloadBits)
              else .bad .endBit

end Sys2Proof.Machine
end

