-- ==== Sys2Proof/Machine/LinkOps.lean ====
section
/-! DEFINITION. The transmit queue (R116 to R118), MUTE (R114), the report's pages as they leave the queue
(R181), and the delivery of a received frame (R112, R113). -/

namespace Sys2Proof.Machine

/-! ### The end of a report -/

/-- A notice is a REPORT page. -/
def Notice.isReport : Notice → Bool
  | .report _ _ _ _ _ => true
  | _ => false

/-- The report ends (R181): outstanding becomes false, the snapshot absent, and the snapshot is subtracted
when a clear is pending, no page was lost and the power warning has not been asserted. -/
def State.endReport (s : State) (lost : Bool) : State :=
  let applies := s.config.clearPending && !lost && s.node.mode != .saved
  let counters :=
    if applies then s.counters.less s.node.role (s.config.snapshot.getD []) else s.counters
  (s.withCounters counters).withConfig
    { s.config with reportOutstanding := false, snapshot := none, pagesInQueue := 0, pagesLost := lost }

/-- A page of the outstanding report leaves the queue, sent or lost (R181). -/
def State.pageLeft (s : State) (lost : Bool) : State :=
  if s.config.reportOutstanding then
    let anyLost := s.config.pagesLost || lost
    if s.config.pagesInQueue ≤ 1 then s.endReport anyLost
    else s.withConfig
      { s.config with pagesInQueue := s.config.pagesInQueue - 1, pagesLost := anyLost }
  else s

/-! ### The queue -/

/-- Put an entry after every entry of a lower or equal kind code and ahead of every higher one (R116). -/
def insertEntry (e : QueueEntry) : List QueueEntry → List QueueEntry
  | [] => [e]
  | x :: q => if e.notice.kind < x.notice.kind then e :: x :: q else x :: insertEntry e q

/-- The entries other than the entry in flight. -/
def waitingOf (q : List QueueEntry) : List QueueEntry := q.filter fun e => !e.inFlight

/-- The largest kind code among the entries other than the entry in flight (R117). -/
def largestWaitingKind (q : List QueueEntry) : Nat :=
  (waitingOf q).foldl (fun k e => max k e.notice.kind) 0

/-- The queue without the youngest waiting entry of a kind (R117). -/
def removeYoungest (k : Nat) (q : List QueueEntry) : List QueueEntry :=
  (q.reverse.eraseP fun e => !e.inFlight && e.notice.kind == k).reverse

/-- The transmit queue holds up to 8 notices (R116). -/
def queueCapacity : Nat := 8

/-- The link controller with another queue; a frame no longer in the queue is off the wire. -/
def Link.withQueue (l : Link) (q : List QueueEntry) : Link :=
  { l with
    queue := q, wire := if q.any (·.inFlight) then l.wire else []
    shutOvertaken := if q.any (·.inFlight) then l.shutOvertaken else false }

/-- A notice joins the queue by R116, or meets a full queue by R117: the youngest entry of the largest
waiting kind gives way if that kind is above the newcomer's, else the newcomer is discarded, and
TX_DROPPED counts either. -/
def State.joinQueue (s : State) (n : Notice) : State :=
  let q := s.link.queue
  if q.length < queueCapacity then
    s.withLink (s.link.withQueue (insertEntry ⟨n, false⟩ q))
  else
    let k := largestWaitingKind q
    let s1 := s.countLink fun c => { c with txDropped := c.txDropped + 1 }
    if n.kind < k then
      let s2 := s1.withLink (s1.link.withQueue (insertEntry ⟨n, false⟩ (removeYoungest k q)))
      if k = 10 then s2.pageLeft true else s2
    else s1

/-- The queue without the waiting entries that hold a notice. -/
def dropWaiting (n : Notice) (q : List QueueEntry) : List QueueEntry :=
  q.filter fun e => e.inFlight || e.notice != n

/-- The entry in flight is a STEAM-SHUT. -/
def Link.sendingShut (l : Link) : Bool := l.queue.any fun e => e.inFlight && e.notice == .steamShut

/-- A STEAM-OPEN offered during the frame of a STEAM-SHUT is remembered for as long as that frame is on the
wire (row 4 of R118). -/
def Link.overtake (l : Link) : Link := { l with shutOvertaken := l.shutOvertaken || l.sendingShut }

/-- A notice is offered (R104, R114 to R118). While the link is ACTIVE: a STEAM-SHUT that finds a
STEAM-OPEN removes it, abandoning its frame if it is in flight, and is not queued itself (log 17); a
STEAM-OPEN removes a waiting STEAM-SHUT, is remembered against one in flight, and joins; every other notice
joins. In any other link state the notice is dropped and counted. -/
def State.offer (s : State) (n : Notice) : State :=
  match s.link.state with
  | .active =>
    match n with
    | .steamShut =>
      if s.link.queue.any fun e => e.notice == .steamOpen then
        s.withLink (s.link.withQueue (s.link.queue.filter fun e => e.notice != .steamOpen))
      else s.joinQueue .steamShut
    | .steamOpen =>
      (s.withLink (s.link.overtake.withQueue (dropWaiting .steamShut s.link.queue))).joinQueue .steamOpen
    | n => s.joinQueue n
  | _ => s.countLink fun c => { c with linkDropped := c.linkDropped + 1 }

/-- Entering MUTE empties the queue, counts each entry in LINK_DROPPED and loses a report's pages
(R114, R181). -/
def State.enterMute (s : State) : State :=
  let q := s.link.queue
  let s1 := s.countLink fun c => { c with linkDropped := c.linkDropped + BitVec.ofNat 32 q.length }
  let s2 := s1.withLink { s1.link with
    state := .mute, queue := [], mutePending := false, wire := [], shutOvertaken := false }
  (q.filter fun e => e.notice.isReport).foldl (fun s _ => s.pageLeft true) s2

/-- A sixteenth transmit error makes the link MUTE once the frame on the wire has ended (R109, log 15). -/
def State.frameOver (s : State) : State := if s.link.mutePending then s.enterMute else s

/-! ### Sending -/

/-- The first entry becomes the entry in flight (R116). -/
def startFirst : List QueueEntry → List QueueEntry
  | [] => []
  | e :: q => { e with inFlight := true } :: q

/-- An entry is in flight. -/
def Link.sending (l : Link) : Bool := l.queue.any fun e => e.inFlight

/-- The frame in flight failed: its notice stays in the queue, except that a STEAM-SHUT is removed when a
STEAM-OPEN was offered during its frame (R108, R109, row 4 of R118). -/
def Link.groundFrame (l : Link) : Link :=
  l.withQueue
    (if l.shutOvertaken && l.sendingShut then waitingOf l.queue
      else l.queue.map fun e => { e with inFlight := false })

/-- The consecutive transmit-error count at which the link becomes MUTE (R109). -/
def muteErrors : Nat := 16

/-! ### Receiving -/

/-- The link receives: it is ACTIVE or MUTE (section 6.4). -/
def Link.receives (l : Link) : Bool := l.state == .active || l.state == .mute

/-- A frame with the node's own address that it was not itself sending makes an ACTIVE link MUTE at once;
in MUTE it changes nothing (R113). -/
def State.takeDuplicate (s : State) : State :=
  if s.link.state == .active then s.enterMute else s

/-- A valid frame at the end of its end field (R112): a frame with the node's own address is a duplicate
address, any other is delivered to the blocks of the role; then the frame is over (log 15, 28). -/
def State.receive (s : State) (sender : Address) (deliver : State → State) : State :=
  if s.link.receives then
    (if sender == s.node.address then s.takeDuplicate else deliver s).frameOver
  else s

end Sys2Proof.Machine
end

