-- ==== Sys2Proof/Machine/Vacuum.lean ====
section
/-! DEFINITION. The vacuum calculator (Chapter 5): the prediction in six stages and the conversion of a
panel deflection. It holds no state. -/

namespace Sys2Proof.Machine

/-- The vapour-pressure table of section 5.2, in hPa at each ten degrees. -/
def vapourTable : List Nat := [6, 12, 23, 42, 74, 123, 199, 312, 474, 701, 1013]

/-- Stage 1: the vapour pressure of `t` tenths of a degree, 0..1000 (R92). -/
def vapourPressure (t : Nat) : Nat :=
  let j := t / 100
  if 10 ≤ j then 1013
  else
    let lo := vapourTable.getD j 0
    lo + ((vapourTable.getD (j + 1) 0 - lo) * (t - 100 * j) + 50) / 100

/-- Stage 2: the dry pressure, 0 when the difference is not positive (R94). -/
def dryPressure (pAmb t : Nat) : Nat := ((pAmb : Int) - vapourPressure t).toNat

/-- The interpolated cases of stage 3: `d` at or below the last point gives its fraction, an interval
gives the interpolated drop (R96). -/
def residualFrom (d : Nat) : Nat × Nat → List (Nat × Nat) → Nat
  | p, [] => p.2
  | p, q :: rest =>
    if d < q.1 then p.2 - ((p.2 - q.2) * (d - p.1) + (q.1 - p.1) / 2) / (q.1 - p.1)
    else residualFrom d q rest

/-- Stage 3: the residual air fraction of a dose (R96). A table without points, which no bank holds, gives 0
(DESIGN CHOICE, log 13). -/
def residualFraction (purge : List (Nat × Nat)) (d : Nat) : Nat :=
  match purge with
  | [] => 0
  | p :: rest => if d ≤ p.1 then p.2 else residualFrom d p rest

/-- Stage 4: the air pressure at seal (R97). -/
def airAtSeal (r dry : Nat) : Nat := (r * dry + 512) / 1024

/-- Stage 5: the cooled air pressure (R98). -/
def cooledAir (aS tCool t : Nat) : Nat := (aS * (2732 + tCool) + (2732 + t) / 2) / (2732 + t)

/-- Stage 6: the predicted vacuum from a seal temperature and a dose, clamped to 0..P_amb (R99). -/
def predictedVacuum (pAmb tCool : Nat) (purge : List (Nat × Nat)) (t d : Nat) : Nat :=
  let aC := cooledAir (airAtSeal (residualFraction purge d) (dryPressure pAmb t)) tCool t
  clampNat 0 pAmb ((pAmb : Int) - aC - vapourPressure tCool)

/-- The measured vacuum of a clamped deflection: a plain floor, clamped to 0..P_amb (R103). -/
def measuredVacuum (pAmb : Nat) (d0 : Int) (gain : Nat) (defl : Int) : Nat :=
  clampNat 0 pAmb (Int.fdiv ((clampDeflection defl - d0) * gain) 256)

end Sys2Proof.Machine
end

