-- ==== Sys2Proof/Machine/RejectOps.lean ====
section
/-! DEFINITION. The reject unit (Chapter 9): the reading slot, judgement, the reject queue and the stop
latch. -/

namespace Sys2Proof.Machine

/-! ### The stop latch (R169) -/

/-- The two causes that set the stop latch, with their details (section 6.7). -/
inductive StopCause where
  | overflow
  | consecutive
  deriving DecidableEq, Repr

/-- The detail of a STATE STOP (section 6.7). -/
def StopCause.detail : StopCause → Byte
  | .overflow => 1
  | .consecutive => 2

/-- A cause that finds the latch clear sets it, is counted, and posts STOP; with the latch set it changes
nothing (R169). -/
def State.setStop (s : State) (why : StopCause) : State :=
  if s.reject.stop then s
  else
    (((s.withReject { s.reject with stop := true }).countCheck
      fun c => { c with lineStops := c.lineStops + 1 }).countLifetime
      fun l => { l with four := l.four + 1 }).offer (.state (.stop why.detail))

/-! ### The reject queue (R165, R166) -/

/-- The reject queue holds up to 32 entries (R166). -/
def rejectCapacity : Nat := 32

/-- Counts that hold at 255 (R163, R165). -/
def runCap : Nat := 255

/-- A gate position placed after every entry at or below it and ahead of every entry above it (R166). -/
def insertGate (g : Position) : List Position → List Position
  | [] => [g]
  | x :: q => if reached g x then x :: insertGate g q else g :: x :: q

/-- A reject of the jar that arrived at `x` (R165, R166, R169): counted, run counted, offered to the
queue; then the stop test, overflow first. -/
def State.rejectJar (s : State) (x : Position) : State :=
  let s1 := ((s.withReject { s.reject with consecutive := min runCap (s.reject.consecutive + 1) }).countCheck
    fun c => { c with rejects := c.rejects + 1 }).countLifetime fun l => { l with two := l.two + 1 }
  let gate := x + BitVec.ofNat 32 s.config.header.gGate
  let s2 :=
    if s1.reject.queue.length < rejectCapacity then
      s1.withReject { s1.reject with queue := insertGate gate s1.reject.queue }
    else
      (s1.countCheck fun c => { c with rejectOverflows := c.rejectOverflows + 1 }).setStop .overflow
  if 0 < s2.config.header.nStop ∧ s2.config.header.nStop ≤ s2.reject.consecutive then
    s2.setStop .consecutive
  else s2

/-- An acceptance (R165). -/
def State.acceptJar (s : State) : State :=
  (s.withReject { s.reject with consecutive := 0 }).countCheck
    fun c => { c with accepts := c.accepts + 1 }

/-! ### Judgement (R161 to R164) -/

/-- The outcomes of a judgement (R161). -/
inductive Outcome where
  | accept
  | rejGap
  | rejConfig
  | rejCap
  | rejLow
  | rejPred
  deriving DecidableEq, Repr

/-- The VERDICT codes (section 6.7); REJ_GAP has none, since a GAP offers no VERDICT (R164). -/
def Outcome.code : Outcome → Byte
  | .accept => 0
  | .rejCap => 1
  | .rejLow => 2
  | .rejPred => 3
  | .rejConfig => 4
  | .rejGap => 0xFF

/-- Step 1 of R161: the measured vacuum of an entry with a reading, or absent (R102, R103). -/
def State.panelVacuum (s : State) (e : Matched) (reading : Option SensorReading) : Option Nat :=
  match e, reading with
  | .sealed e _, some ⟨v, true⟩ =>
    if s.config.usable.get e.bank then
      some (measuredVacuum s.config.header.pAmb (s.bankOf e.bank).d0 (s.bankOf e.bank).gain v)
    else none
  | _, _ => none

/-- Step 2 of R161: the first rule that applies gives the outcome. -/
def outcomeOf (e : Matched) (vMeas : Option Nat) (bank : Bank) : Outcome :=
  match e with
  | .gap _ _ => .rejGap
  | .sealed e _ =>
    if !e.sigMatch then .rejConfig
    else if e.capVerdict ≠ 0 then .rejCap
    else match vMeas with
      | some v => if bank.vMin ≤ v then .accept else .rejLow
      | none => if bank.vMin + bank.fallbackMargin ≤ e.vPred then .accept else .rejPred

/-- Rules 4 and 5 of R161 decide an entry: a SEAL whose signature matched and whose cap was GOOD. -/
def Matched.judgedByVacuum : Matched → Bool
  | .gap _ _ => false
  | .sealed e _ => e.sigMatch && e.capVerdict == 0

/-- The DEVIATE test of R162: the outcome came from rule 4 and measured and predicted vacuum differ by more
than the deviation tolerance. -/
def deviates (e : Matched) (vMeas : Option Nat) (bank : Bank) : Bool :=
  match e, vMeas with
  | .sealed x _, some v =>
    e.judgedByVacuum && decide (bank.deviation < ((v : Int) - x.vPred).natAbs)
  | _, _ => false

/-- A reading has status OK. -/
def readingOk : Option SensorReading → Bool
  | some r => r.ok
  | none => false

/-- Step 4 of R161: a judgement without an OK reading lengthens the no-reading run and may enter the
sensor fallback (R163). -/
def State.lengthenRun (s : State) : State :=
  let run := min runCap (s.reject.noReading + 1)
  let s1 := s.withReject { s.reject with noReading := run }
  if s.config.header.m ≤ run && !s.reject.fallback then
    (s1.withReject { s1.reject with fallback := true }).offer (.state .sensorFallback)
  else s1

/-- A reading of status OK sets the run to 0 and ends the sensor fallback (R159, R163). -/
def State.sensorReads (s : State) : State :=
  let s1 := s.withReject { s.reject with noReading := 0 }
  if s.reject.fallback then
    (s1.withReject { s1.reject with fallback := false }).offer (.state .sensorOk)
  else s1

/-- The bank an entry is judged under. -/
def State.judgeBank (s : State) : Matched → Bank
  | .sealed e _ => s.bankOf e.bank
  | .gap _ _ => s.bankOf 0

/-- The VERDICT of a judged SEAL (R164). -/
def verdictOf (e : SealEntry) (o : Outcome) (flags : Byte) (vMeas : Option Nat) : VerdictPayload :=
  { head := BitVec.ofNat 8 e.head, revolution := e.revolution, code := o.code, flags := flags,
    vMeas := BitVec.ofNat 16 (vMeas.getD 65535) }

/-- An entry that arrived at `x` is judged, with a reading or without one (R161). -/
def State.judge (s : State) (e : Matched) (x : Position) (reading : Option SensorReading) : State :=
  let vMeas := s.panelVacuum e reading
  let bank := s.judgeBank e
  let o := outcomeOf e vMeas bank
  let dev := deviates e vMeas bank
  let s1 := if dev then s.countCheck fun c => { c with deviations := c.deviations + 1 } else s
  let s2 :=
    if readingOk reading then s1
    else (s1.countCheck fun c => { c with unmeasured := c.unmeasured + 1 }).lengthenRun
  let flags := verdictFlags dev (e.judgedByVacuum && vMeas == none) s2.reject.fallback
  let s3 := match e with
    | .sealed se _ => s2.offer (.verdict (verdictOf se o flags vMeas))
    | .gap _ _ => s2
  if o = .accept then s3.acceptJar else s3.rejectJar x

/-! ### The reading slot (R157 to R160) -/

/-- The slot is settled before a new jar takes it: a HELD entry is judged without a reading, a STRAY slot
cleared (R157). -/
def State.settleSlot (s : State) : State :=
  match s.reject.slot with
  | .empty => s
  | .stray _ => s.withReject { s.reject with slot := .empty }
  | .held e x => (s.withReject { s.reject with slot := .empty }).judge e x none

/-- A matched entry is handed over with its arrival position (R157). -/
def State.takeMatch (s : State) (e : Matched) (x : Position) : State :=
  let s1 := s.settleSlot
  s1.withReject { s1.reject with slot := .held e x }

/-- A stray is handed over with its arrival position: the slot is settled, becomes STRAY, and the stray
is rejected at once (R158). -/
def State.takeStray (s : State) (x : Position) : State :=
  let s1 := s.settleSlot
  (s1.withReject { s1.reject with slot := .stray x }).rejectJar x

/-- A panel reading (R159). -/
def State.takeReading (s : State) (reading : SensorReading) : State :=
  let s1 := if reading.ok then s.sensorReads else s
  match s1.reject.slot with
  | .empty => s1.countCheck fun c => { c with orphanReadings := c.orphanReadings + 1 }
  | .stray _ => s1.withReject { s1.reject with slot := .empty }
  | .held e x => (s1.withReject { s1.reject with slot := .empty }).judge e x (some reading)

/-- The reading window of the slot has closed: the conveyor has reached x + R_read (R160). -/
def State.readingWindowDue (s : State) : Bool :=
  match s.reject.slot with
  | .empty => false
  | .held _ x | .stray x =>
    reached s.transit.position (x + BitVec.ofNat 32 s.config.header.rRead)

/-! ### The gate (R167, R168) -/

/-- A pulse of the reject output (R168). -/
def State.pulseGate (s : State) : State :=
  s.withReject { s.reject with
    output := true, pulseEnd := some (s.timeBase + msTime s.config.header.pulseMs) }

/-- The front entries whose gate position the conveyor has reached leave the queue, and the output is
pulsed (R167). -/
def State.fireGates (s : State) : State :=
  let rest := s.reject.queue.dropWhile fun g => reached s.transit.position g
  if rest.length < s.reject.queue.length then
    (s.withReject { s.reject with queue := rest }).pulseGate
  else s

/-- The pulse ends when the time base reaches the pulse end (R168). -/
def State.endPulse (s : State) : State :=
  match s.reject.pulseEnd with
  | some e =>
    if reached s.timeBase e then s.withReject { s.reject with output := false, pulseEnd := none } else s
  | none => s

end Sys2Proof.Machine
end

