-- ==== Sys2Proof/Machine/TransitOps.lean ====
section
/-! DEFINITION. The transit tracker (Chapter 8): building the list, window closes and jar arrival. -/

namespace Sys2Proof.Machine

/-! ### Entries and windows -/

/-- The expected position of an entry (section 8.1). -/
def TransitEntry.expected : TransitEntry → Position
  | .sealed _ p => p
  | .void _ _ p => p
  | .gap _ p => p

/-- The half-width of a window as a distance. -/
def State.halfWidth (s : State) : Position := BitVec.ofNat 32 s.config.header.w

/-- The window of an entry has closed: the conveyor has passed exp + W (section 8.4). -/
def State.windowPassed (s : State) (e : TransitEntry) : Bool :=
  passed s.transit.position (e.expected + s.halfWidth)

/-- A jar comes before an entry's window: x − (exp − W) is negative (R149). -/
def State.beforeWindow (s : State) (e : TransitEntry) : Bool :=
  !reached s.transit.position (e.expected - s.halfWidth)

/-! ### Building the list (R137 to R144) -/

/-- The transit list holds up to 512 entries (R144). -/
def transitCapacity : Nat := 512

/-- An entry is appended, or dropped and counted when the list is full (R144). -/
def State.appendEntry (s : State) (e : TransitEntry) : State :=
  if s.transit.entries.length < transitCapacity then
    s.withTransit { s.transit with entries := s.transit.entries ++ [e] }
  else s.countCheck fun c => { c with transitOverflows := c.transitOverflows + 1 }

/-- The expected position of a record taken now (R143). -/
def State.expectedNow (s : State) : Position :=
  s.transit.position + BitVec.ofNat 32 s.config.header.dTravel

/-- A GAP entry for a skipped pocket, counted in GAPS_INSERTED even when the full list drops it (R141). -/
def State.appendGap (s : State) (p : Nat) : State :=
  (s.appendEntry (.gap p s.expectedNow)).countCheck fun c => { c with gapsInserted := c.gapsInserted + 1 }

/-- `m` GAP entries for the pockets from `e` on, each modulo N (R141). -/
def State.appendGaps (s : State) (e m : Nat) : State :=
  ((List.range m).map fun i => (e + i) % s.config.header.n).foldl State.appendGap s

/-- The gap reckoning ahead of the record from pocket `p` (R140 to R142). -/
def State.reckonGaps (s : State) (p : Nat) : State :=
  match s.transit.nextPocket with
  | none => s
  | some e =>
    let n := s.config.header.n
    let m := (p + n - e) % n
    if m = 0 then s
    else if m ≤ n / 2 then s.appendGaps e m
    else s.countCheck fun c => { c with orderFaults := c.orderFaults + 1 }

/-- The last revolution heard from a pocket (R138). -/
def Transit.lastRevOf (tr : Transit) (p : Nat) : Option Half := tr.lastRev.getD p none

/-- A SEAL or VOID from pocket `p` is taken by the tracker (R137, R138, R140, R144). -/
def State.takeRecord (s : State) (p : Nat) (revolution : Half) (entry : TransitEntry) : State :=
  if s.transit.lastRevOf p = some revolution then
    s.countCheck fun c => { c with duplicates := c.duplicates + 1 }
  else
    let s1 := s.withTransit { s.transit with lastRev := s.transit.lastRev.set p (some revolution) }
    let s2 := (s1.reckonGaps p).appendEntry entry
    s2.withTransit { s2.transit with nextPocket := some ((p + 1) % s.config.header.n) }

/-- The entry of a SEAL (R143). -/
def State.sealEntry (s : State) (p : Nat) (x : SealPayload) : TransitEntry :=
  .sealed
    { head := p, revolution := x.revolution, capVerdict := x.capVerdict, vPred := x.vPred.toNat,
      bank := x.bank, sigMatch := x.signature == s.config.signature }
    s.expectedNow

/-- A SEAL at the check node: taken when its sender is a head, 0..N−1 (R137). -/
def State.takeSeal (s : State) (sender : Address) (x : SealPayload) : State :=
  if sender.toNat < s.config.header.n then
    s.takeRecord sender.toNat x.revolution (s.sealEntry sender.toNat x)
  else s

/-- A VOID at the check node (R137, R143). -/
def State.takeVoid (s : State) (sender : Address) (x : VoidPayload) : State :=
  if sender.toNat < s.config.header.n then
    s.takeRecord sender.toNat x.revolution (.void sender.toNat x.revolution s.expectedNow)
  else s

/-- A JOIN at the check node makes the sender's last revolution absent (R139). -/
def State.forgetRevolution (s : State) (sender : Address) : State :=
  if sender.toNat < s.config.header.n then
    s.withTransit { s.transit with lastRev := s.transit.lastRev.set sender.toNat none }
  else s

/-! ### Window close (R145 to R147) -/

/-- The VERDICT MISSING of a SEAL whose window closed (R147). -/
def missingVerdict (e : SealEntry) : VerdictPayload :=
  { head := BitVec.ofNat 8 e.head, revolution := e.revolution, code := 5, flags := 0, vMeas := 0xFFFF#16 }

/-- A window that closes is handled by the kind of its entry (R146). -/
def State.closeWindow (s : State) : TransitEntry → State
  | .void _ _ _ => s.countCheck fun c => { c with voidsRetired := c.voidsRetired + 1 }
  | .gap _ _ => s.countCheck fun c => { c with gapsEmpty := c.gapsEmpty + 1 }
  | .sealed e _ =>
    ((s.offer (.verdict (missingVerdict e))).countCheck
      fun c => { c with missingSeals := c.missingSeals + 1 }).countLifetime
      fun l => { l with three := l.three + 1 }

/-- Every front entry whose window the conveyor has passed is closed and removed, oldest first; the
closes stop at the first whose window has not been passed (R145). -/
def State.closeWindows (s : State) : State :=
  let closing := s.transit.entries.takeWhile s.windowPassed
  let s1 := s.withTransit { s.transit with entries := s.transit.entries.dropWhile s.windowPassed }
  closing.foldl State.closeWindow s1

/-! ### Jar arrival (R148 to R151) -/

/-- A jar that no entry claims (R151, R158). -/
def State.strayArrives (s : State) : State :=
  (s.countCheck fun c => { c with strays := c.strays + 1 }).takeStray s.transit.position

/-- A jar edge at the present conveyor position is handled by the front entry (R149, R150). -/
def State.jarArrives (s : State) : State :=
  match s.transit.entries with
  | [] => s.strayArrives
  | e :: rest =>
    if s.beforeWindow e then s.strayArrives
    else
      let s1 := s.withTransit { s.transit with entries := rest }
      match e with
      | .void _ _ _ => s1.strayArrives
      | .sealed x expected => s1.takeMatch (.sealed x expected) s.transit.position
      | .gap h expected => s1.takeMatch (.gap h expected) s.transit.position

/-- The transit tracker starts (R135): one last-revolution entry for each pocket. -/
def State.startTransit (s : State) : State :=
  s.withTransit { s.transit with lastRev := List.replicate s.config.header.n none }

end Sys2Proof.Machine
end

