-- ==== Sys2Proof/Machine/CheckStation.lean ====
section
/-! DEFINITION. The meanings of the conveyor, jar, panel and gate commands (R136, R145 to R151, R157 to
R168). -/

namespace Sys2Proof.Machine

/-- CONVEYOR_ADVANCE (R136): a forward count adds 1 to the conveyor position, a backward count is ignored.
The closes due at the new position are commands of their own (log 22). -/
def execConveyorAdvance (t : Time) (backward : Bool) (s : State) : Host.Outcome State Fault Refusal :=
  let s := s.enter t
  .next
    (if s.checkRuns && !backward then
      s.withTransit { s.transit with position := s.transit.position + 1 }
    else s)

/-- TRANSIT_WINDOW_CLOSE (R145 to R147). -/
def execTransitWindowClose (t : Time) (s : State) : Host.Outcome State Fault Refusal :=
  let s := s.enter t
  .next (if s.checkRuns then s.closeWindows else s)

/-- JAR_EDGE (R148 to R151, R176): every window the conveyor has passed has closed by then (log 22). -/
def execJarEdge (t : Time) (s : State) : Host.Outcome State Fault Refusal :=
  let s := s.enter t
  .next
    (if s.checkRuns then
      (s.countLifetime fun l => { l with one := l.one + 1 }).closeWindows.jarArrives
    else s)

/-- PANEL_READING (R159). -/
def execPanelReading (t : Time) (reading : SensorReading) (s : State) :
    Host.Outcome State Fault Refusal :=
  let s := s.enter t
  .next (if s.checkRuns then s.takeReading reading else s)

/-- READING_WINDOW_CLOSE (R160). -/
def execReadingWindowClose (t : Time) (s : State) : Host.Outcome State Fault Refusal :=
  let s := s.enter t
  .next (if s.checkRuns && s.readingWindowDue then s.settleSlot else s)

/-- GATE_POSITION_REACHED (R167, R168). -/
def execGatePositionReached (t : Time) (s : State) : Host.Outcome State Fault Refusal :=
  let s := s.enter t
  .next (if s.checkRuns then s.fireGates else s)

/-- REJECT_PULSE_END (R168). -/
def execRejectPulseEnd (t : Time) (s : State) : Host.Outcome State Fault Refusal :=
  let s := s.enter t
  .next (if s.checkRuns then s.endPulse else s)

end Sys2Proof.Machine
end

