-- ==== Sys2Proof/Machine/SteamOps.lean ====
section
/-! DEFINITION. The steam unit (Chapter 3): the valve and its settle timer, the flush, the roster and the
dose tick. -/

namespace Sys2Proof.Machine

/-! ### The settle timer and the tick train -/

/-- The valve feedback disagrees with the valve command (R46). -/
def State.valveDisagrees (s : State) : Bool := s.steam.commandOpen != s.pins.valveOpen

/-- The settle timer as the feedback and the command stand: it goes on running, starts now, or stops
(R46). -/
def State.settleNow (s : State) : Option Time :=
  if s.valveDisagrees then some (s.steam.settle.getD s.timeBase) else none

/-- The first tick comes 1 ms after the train starts (R63). -/
def State.firstTick (s : State) : Option Time := some (s.timeBase + msTime 1)

/-! ### The end of a flush -/

/-- The open flush closes with a cause: the cause and the steam result go into the record, and an
UNDERFLUSH is counted (R54 steps 1 to 3, R56). -/
def State.closeFlush (s : State) (cause : FlushEnd) : State :=
  let full := decide (s.steam.target.getD 0 ≤ s.steam.dose)
  let s1 := s.onRecord fun r =>
    { r with flushEnd := cause, steamResult := if full then .full else .underflush }
  let s2 := s1.withSteam { s1.steam with flush := .ended }
  if full then s2 else s2.countHead fun c => { c with underflushes := c.underflushes + 1 }

/-- The valve is commanded shut at the close of a flush and its state changes by the table of R54; the
cycle is detached when the valve is SHUT (R58). OPENING with the feedback open does not occur (log 13). -/
def State.shutValve (s : State) : State :=
  match s.steam.valve with
  | .opened =>
    if s.pins.valveOpen then
      (s.withSteam { s.steam with commandOpen := false, valve := .shutting, settle := some s.timeBase,
                                  ticks := none }).offer .steamShut
    else
      (s.withSteam { s.steam with commandOpen := false, valve := .shut, settle := none, ticks := none,
                                  attached := false }).offer .steamShut
  | .opening =>
    if s.pins.valveOpen then
      s.withSteam { s.steam with commandOpen := false, valve := .shutting, settle := some s.timeBase }
    else
      s.withSteam { s.steam with commandOpen := false, valve := .shut, settle := none,
                                 attached := false }
  | _ => s.withSteam { s.steam with commandOpen := false }

/-- A shut request with its flush-end cause; it changes nothing when no flush is open (R54). -/
def State.shutRequest (s : State) (cause : FlushEnd) : State :=
  if s.steam.flush == .opened then (s.closeFlush cause).shutValve else s

/-! ### Opening -/

/-- The valve enters OPEN: STEAM-OPEN is posted, the settle timer stops, the tick train starts (R47). -/
def State.enterOpen (s : State) : State :=
  (s.withSteam { s.steam with valve := .opened, settle := none, ticks := s.firstTick }).offer .steamOpen

/-- The sequencer tells the unit to open for a cycle with target `t` (R53). An open request while a flush
is still in progress does not occur (log 13). -/
def State.openRequest (s : State) (t : Nat) : State :=
  let s1 := (s.withSteam { s.steam with flush := .opened, attached := true, target := some t,
                                        dose := 0 }).onRecord fun r => { r with dose := 0 }
  match s1.steam.valve with
  | .shut | .shutting =>
    let s2 := s1.withSteam { s1.steam with commandOpen := true }
    if s2.pins.valveOpen then s2.enterOpen
    else s2.withSteam { s2.steam with valve := .opening, settle := some s2.timeBase }
  | .faultOpen | .faultShut =>
    (s1.onRecord fun r => { r with valveFault := true }).closeFlush .valve
  | .opening | .opened => s1

/-! ### Faults of the valve -/

/-- A valve that enters a fault state is counted, and marks the record of an attached cycle (R46, R57,
R176). -/
def State.markValveFault (s : State) : State :=
  let s1 := (s.countHead fun c => { c with valveFaults := c.valveFaults + 1 }).countLifetime
    fun l => { l with three := l.three + 1 }
  if s1.steam.attached then s1.onRecord fun r => { r with valveFault := true } else s1

/-- The valve enters FAULT_SHUT: it is commanded shut, the timer and the ticks stop, an open flush ends
with cause VALVE (R46, R57), and STUCK_SHUT is posted. -/
def State.enterFaultShut (s : State) : State :=
  let s1 := (s.withSteam { s.steam with valve := .faultShut, commandOpen := false, settle := none,
                                        ticks := none }).markValveFault
  let s2 := if s1.steam.flush == .opened then s1.closeFlush .valve else s1
  s2.offer (.valveFault .stuckShut)

/-- The valve enters FAULT_OPEN: the timer stops and STUCK_OPEN is posted (R46). From SHUTTING, with a
cycle attached and D below T, the tick train restarts for that cycle (R58, log 14). -/
def State.enterFaultOpen (s : State) : State :=
  let counts := s.steam.valve == .shutting && s.steam.attached
    && decide (s.steam.dose < s.steam.target.getD 0)
  let s1 := (s.withSteam { s.steam with valve := .faultOpen, settle := none,
                                        ticks := if counts then s.firstTick else none }).markValveFault
  s1.offer (.valveFault .stuckOpen)

/-- The valve leaves a fault state for SHUT: the cycle is detached, counting stops, and CLEARED is posted
(R50, R51, R58). -/
def State.clearFault (s : State) : State :=
  (s.withSteam { s.steam with valve := .shut, settle := s.settleNow, ticks := none,
                              attached := false }).offer (.valveFault .cleared)

/-- The request to clear FAULT_SHUT at a RESTORE; in any other valve state it changes nothing (R51). -/
def State.clearFaultShut (s : State) : State :=
  if s.steam.valve == .faultShut then s.clearFault else s

/-- The feedback has come to show the level in the pins (R46 to R50). -/
def State.feedbackChanged (s : State) : State :=
  match s.steam.valve, s.pins.valveOpen with
  | .opening, true => s.enterOpen
  | .shutting, false =>
    s.withSteam { s.steam with valve := .shut, settle := none, attached := false }
  | .faultOpen, false => s.clearFault
  | .faultOpen, true => s
  | _, _ => s.withSteam { s.steam with settle := s.settleNow }

/-- The settle timer has run for s_v (R46): the table of R46. -/
def State.settleExpired (s : State) : State :=
  match s.steam.valve with
  | .opening | .opened => s.enterFaultShut
  | .shut | .shutting | .faultShut => s.enterFaultOpen
  | .faultOpen => s

/-! ### The roster and the dose -/

/-- Set the state of a peer's entry; addresses without an entry change nothing (R60). -/
def State.setRoster (s : State) (peer : Nat) (st : RosterState) : State :=
  s.withSteam { s.steam with
    roster := s.steam.roster.map fun e => if e.peer = peer then { e with state := st } else e }

/-- A roster entry that counts as an open valve (R64). -/
def RosterEntry.drawsSteam (e : RosterEntry) : Bool := e.state != .closed

/-- The number of valves open on the header (R64). -/
def State.openValves (s : State) : Nat := 1 + s.steam.roster.countP RosterEntry.drawsSteam

/-- The share of full flow in 1/256 (R64). -/
def loadShare (k n : Nat) : Nat := if n ≤ k then 256 else 256 * k / n

/-- The increment of one tick (R65). -/
def doseIncrement (qn share : Nat) : Nat := max 1 ((qn * share + 128) / 256)

/-- One dose tick (R65): D rises by the increment at the present share, and reaching T ends the flush
with TARGET in OPEN or stops the counting of R58 in FAULT_OPEN. The next tick is due 1 ms after this one
was (R63). -/
def State.takeTick (s : State) (due : Time) : State :=
  let i := doseIncrement s.config.header.qn (loadShare s.config.header.k s.openValves)
  let d := min 65535 (s.steam.dose + i)
  let s1 := (s.withSteam { s.steam with dose := d, ticks := some (due + msTime 1) }).onRecord
    fun r => { r with dose := d }
  if s1.steam.target.getD 0 ≤ d then
    match s1.steam.valve with
    | .opened => s1.shutRequest .target
    | _ =>
      (s1.withSteam { s1.steam with ticks := none }).onRecord
        fun r => { r with steamResult := .full }
  else s1

/-- The posting of the record detaches the cycle and stops the counting of R58. The flush is none again, and T
and D stand until the next flush sets them (DESIGN CHOICE, log 30). -/
def State.detach (s : State) : State :=
  s.withSteam { s.steam with
    attached := false, flush := .none,
    ticks := if s.steam.valve == .faultOpen then none else s.steam.ticks }

/-- The steam unit starts (R45): the roster has one closed entry for each address 0..N−1 but the head's
own, and the settle timer runs if the feedback shows open. -/
def State.startSteam (s : State) : State :=
  let s1 := s.withSteam { s.steam with
    roster := ((List.range s.config.header.n).filter fun a => a != s.own).map fun a => ⟨a, .closed⟩ }
  s1.withSteam { s1.steam with settle := s1.settleNow }

end Sys2Proof.Machine
end

