-- ==== Sys2Proof/Machine/ClosingOps.lean ====
section
/-! DEFINITION. The closing unit's own operations (Chapter 4): the drive commands, start, stop and release,
and the classification of samples. The phase tests stand in ClosingSample.lean. -/

namespace Sys2Proof.Machine

/-- A closing is running: SEEK, TIGHTEN or DWELL (section 4.1). -/
def ClosingState.running : ClosingState → Bool
  | .seek | .tighten | .dwell => true
  | .free | .parked => false

/-- A command comes into force and is sent at that moment (R72). -/
def Closing.inForce (c : Closing) (d : DriveCommand) : Closing :=
  { c with command := d, sent := c.sent ++ [d] }

/-- The command in force is sent again, as after each sample arrival (R72). -/
def Closing.resend (c : Closing) : Closing := { c with sent := c.sent ++ [c.command] }

/-- The limits in use; every running closing has taken them (R73). -/
def Closing.limit (c : Closing) (f : ClosingLimits → Nat) : Nat :=
  match c.limits with
  | some l => f l
  | none => 0

/-- The closing limits of a bank (R73). -/
def Bank.limits (b : Bank) : ClosingLimits :=
  { tEngage := b.tEngage, tFinal := b.tFinal, tHold := b.tHold, spinSpeed := b.spinSpeed,
    sMax := b.sMax, aMin := b.aMin, aMax := b.aMax }

/-- STOP comes into force and the unit is PARKED (R84, R86). -/
def Closing.park (c : Closing) : Closing := { c.inForce .stop with phase := .parked }

/-- A release request (R87): FREEWHEEL, FREE, A_e absent, slip count 0; nothing in FREE. -/
def Closing.release (c : Closing) : Closing :=
  if c.phase == .free then c
  else { c.inForce .freewheel with phase := .free, engageAngle := none, slip := 0 }

/-- A stop request (R86): it parks a running closing and changes nothing in PARKED or FREE. -/
def Closing.stop (c : Closing) : Closing := if c.phase.running then c.park else c

/-- A start request under a bank (R73); found outside FREE it is taken as a release and then the start. -/
def Closing.start (c : Closing) (b : Bank) : Closing :=
  let c := c.release
  let c := { c with limits := some b.limits, angle := 0, engageAngle := none, prevAngle := c.lastAngle,
                    slip := 0, peakTaken := false }
  { c.inForce (.spin b.spinSpeed) with phase := .seek }

/-- The sample deadline stands 600 µs after a sample event (R68 to R70). -/
def sampleGap : Time := 600#32

/-- The highest value the consecutive bad count takes (R69). -/
def badRunCap : Nat := 2

/-- What a good sample does whatever the closing state (R69). -/
def Closing.takeGood (c : Closing) (d : DriveSample) : Closing :=
  { c with lastTorque := some d.torque, lastAngle := some d.angle, badRun := 0, ready := true }

/-- What a bad or missing sample does whatever the closing state (R69). -/
def Closing.takeBad (c : Closing) : Closing :=
  { c with badRun := min badRunCap (c.badRun + 1), ready := false }

/-- The closing unit of the state, changed. -/
def State.onClosing (s : State) (f : Closing → Closing) : State := s.withClosing (f s.closing)

/-- The closing unit starts (R68): FREEWHEEL is sent and the sample deadline stands 600 µs ahead. -/
def State.startClosing (s : State) : State :=
  s.onClosing fun c => { c.inForce .freewheel with deadline := s.timeBase + sampleGap }

end Sys2Proof.Machine
end

