-- ==== Sys2Proof/Machine/VerdictOps.lean ====
section
/-! DEFINITION. The verdict list (Chapter 7): the awaited seals and the trims. -/

namespace Sys2Proof.Machine

/-- The verdict list has room for 32 awaited seals (R123). -/
def awaitedCapacity : Nat := 32

/-- Count entries of the verdict list given up without an answer. -/
def State.countUnanswered (s : State) (n : Nat) : State :=
  s.countHead fun c => { c with verdictsUnanswered := c.verdictsUnanswered + BitVec.ofNat 32 n }

/-- Add the summary of a posted SEAL (R123): a revolution already present is counted and not added; a
full list loses its oldest entry first. -/
def State.addSummary (s : State) (e : Summary) : State :=
  let q := s.verdicts.awaited
  if q.any fun x => x.revolution == e.revolution then s.countUnanswered 1
  else if awaitedCapacity ≤ q.length then
    (s.withVerdicts { s.verdicts with awaited := q.tail ++ [e] }).countUnanswered 1
  else s.withVerdicts { s.verdicts with awaited := q ++ [e] }

/-- A JOIN from address 24 gives up every awaited seal (R126). -/
def State.forgetAwaited (s : State) : State :=
  (s.withVerdicts { s.verdicts with awaited := [] }).countUnanswered s.verdicts.awaited.length

/-- The degraded condition of a bank, if it stands, ends with RECOVERED (R131). -/
def State.recover (s : State) (b : BankId) : State :=
  if s.verdicts.degraded.get b then
    (s.withVerdicts { s.verdicts with degraded := s.verdicts.degraded.set b false }).offer
      (.state (.recovered b))
  else s

/-- The trim of a bank is replaced; below its trim max it ends a degraded condition (R131). -/
def State.setTrim (s : State) (b : BankId) (trim : Nat) : State :=
  let s1 := s.withVerdicts { s.verdicts with trims := s.verdicts.trims.set b trim }
  if trim < (s.bankOf b).trimMax then s1.recover b else s1

/-- The degraded condition of a bank is entered; DEGRADED is posted on entry alone (R130). -/
def State.setDegraded (s : State) (b : BankId) : State :=
  if s.verdicts.degraded.get b then s
  else
    (s.withVerdicts { s.verdicts with degraded := s.verdicts.degraded.set b true }).offer
      (.state (.degraded b))

/-- The good-run count of a bank is replaced. -/
def State.setGoodRun (s : State) (b : BankId) (n : Nat) : State :=
  s.withVerdicts { s.verdicts with goodRun := s.verdicts.goodRun.set b n }

/-- A low result for a bank (R128): a trim at its maximum stays and degrades the bank, any other rises by
one step up to it; the good-run count returns to 0. -/
def State.lowResult (s : State) (b : BankId) : State :=
  let bank := s.bankOf b
  let trim := s.verdicts.trims.get b
  let s1 :=
    if trim = bank.trimMax then s.setDegraded b
    else s.withVerdicts
      { s.verdicts with trims := s.verdicts.trims.set b (min bank.trimMax (trim + bank.trimStep)) }
  s1.setGoodRun b 0

/-- The good results in a row that lower a trim by one step (R129). -/
def goodRunLength : Nat := 8

/-- A good result for a bank (R129). -/
def State.goodResult (s : State) (b : BankId) : State :=
  let run := s.verdicts.goodRun.get b + 1
  if goodRunLength ≤ run then
    (s.setGoodRun b 0).setTrim b (s.verdicts.trims.get b - (s.bankOf b).trimStep)
  else s.setGoodRun b run

/-- The V_meas that means no measurement (R102). -/
def noMeasurement : Half := 0xFFFF#16

/-- An answered entry and its VERDICT change a trim only under the conditions of R127. -/
def answerCounts (e : Summary) (p : VerdictPayload) : Bool :=
  e.capVerdict == .good && p.vMeas != noMeasurement && decide (p.code.toNat ≤ 4)
    && decide (0 < e.dose) && decide (0 < e.vPred.getD 0)

/-- The trim effects of an answered entry (R127 to R129). -/
def State.takeAnswer (s : State) (e : Summary) (p : VerdictPayload) : State :=
  if answerCounts e p then
    if p.vMeas.toNat < (s.bankOf e.bank).vMin + (s.bankOf e.bank).trimMargin then s.lowResult e.bank
    else s.goodResult e.bank
  else s

/-- The entries before the first of a revolution, that entry, and the entries after it. -/
def splitAtRevolution (r : Half) : List Summary → Option (List Summary × Summary × List Summary)
  | [] => none
  | e :: q =>
    if e.revolution == r then some ([], e, q)
    else (splitAtRevolution r q).map fun x => (e :: x.1, x.2)

/-- A VERDICT taken by the list is matched by its revolution (R125). -/
def State.matchVerdict (s : State) (p : VerdictPayload) : State :=
  match splitAtRevolution p.revolution s.verdicts.awaited with
  | some (older, e, newer) =>
    ((s.withVerdicts { s.verdicts with awaited := newer }).countUnanswered older.length).takeAnswer e p
  | none => s.countHead fun c => { c with verdictsUnmatched := c.verdictsUnmatched + 1 }

/-- TRIM-RESET at the verdict list (R132): trims and good-run counts to 0, then RECOVERED for each
degraded bank in bank order. -/
def State.resetTrims (s : State) : State :=
  let s1 := s.withVerdicts { s.verdicts with trims := PerBank.all 0, goodRun := PerBank.all 0 }
  [0#2, 1#2, 2#2, 3#2].foldl State.recover s1

/-- The verdict list takes the handed-over trims (R121): held to trim max for a usable bank, 0 for an
unusable one. -/
def State.startVerdicts (s : State) : State :=
  let held := PerBank.zip (fun t (x : Bool × Bank) => if x.1 then min t x.2.trimMax else 0)
    s.verdicts.trims (PerBank.zip Prod.mk s.config.usable s.config.banks)
  s.withVerdicts { s.verdicts with trims := held }

end Sys2Proof.Machine
end

