-- ==== Sys2Proof/Machine/SeqOps.lean ====
section
/-! DEFINITION. The cycle sequencer (Chapter 2): posting, aborts, infeed and the zone boundaries. -/

namespace Sys2Proof.Machine

/-! ### Posting (R37, R38) -/

/-- The lifetime and report counts of one posting (R38, R176). -/
def State.countPosting (s : State) (r : Record) : State :=
  let s1 := s.countLifetime fun l => { l with one := l.one + 1 }
  if !r.jarPresent then s1.countHead fun c => { c with voids := c.voids + 1 }
  else if r.capVerdict == some .good then
    (s1.countLifetime fun l => { l with two := l.two + 1 }).countHead
      fun c => { c with sealsGood := c.sealsGood + 1 }
  else s1.countHead fun c => { c with sealsNotGood := c.sealsNotGood + 1 }

/-- The summary of a posted SEAL (section 7.1). -/
def summaryOf (r : Record) : Summary :=
  { revolution := r.revolution, bank := r.bank, capVerdict := r.capVerdict.getD .aborted,
    vPred := r.vPred, dose := r.dose }

/-- The notice of a record: VOID for a no-jar record, SEAL for every other (R37). -/
def State.noticeOf (s : State) (r : Record) : Notice :=
  if r.jarPresent then .sealed (sealOf r (s.bankOf r.bank).trimMax s.config.signature)
  else .void (voidOf r)

/-- The open record is posted (R37, R38) and the cycle state becomes IDLE: the notice is offered, a SEAL's
summary joins the verdict list, the posting is counted, the cycle is detached from the valve (R58). A
flush still open at this point, which no run reaches, is shut first (R31, log 13). -/
def State.postRecord (s : State) : State :=
  let s := s.shutRequest .abort
  match s.seq.record with
  | none =>
    let s1 := s.detach
    s1.withSeq { s1.seq with cycle := .idle, reachedClosing := false }
  | some r =>
    let s1 := s.offer (s.noticeOf r)
    let s2 := if r.jarPresent then s1.addSummary (summaryOf r) else s1
    let s3 := (s2.countPosting r).detach
    s3.withSeq { s3.seq with cycle := .idle, record := none, reachedClosing := false }

/-- The spindle is released if this cycle reached CLOSING, and the record is posted (R36). -/
def State.releaseAndPost (s : State) : State :=
  (if s.seq.reachedClosing then s.onClosing Closing.release else s).postRecord

/-! ### Aborts (R39 to R42) -/

/-- What an abort writes into a record: a no-jar record and a record already ABORTED keep what they hold
(R39). -/
def Record.abort (r : Record) (cause : AbortCause) : Record :=
  if !r.jarPresent || r.capVerdict == some .aborted then r
  else { r with capVerdict := some .aborted, abortCause := some cause }

/-- The effects of every abort on the open cycle (R39), counted in CYCLE_ABORTS (R38, R176). -/
def State.abort (s : State) (cause : AbortCause) : State :=
  let s1 := s.shutRequest .abort
  let s2 := if s1.seq.reachedClosing then s1.onClosing Closing.stop else s1
  let s3 := s2.onRecord fun r => r.abort cause
  let s4 := s3.withSeq { s3.seq with
    cycle := .ended, capGate := if s3.seq.cycle == .loading then false else s3.seq.capGate }
  (s4.countHead fun c => { c with cycleAborts := c.cycleAborts + 1 }).countLifetime
    fun l => { l with four := l.four + 1 }

/-- The states in which a run-line fall or a pitch loss aborts the cycle: FLUSHING, and CLOSING in SEEK
or TIGHTEN (R40). -/
def CycleState.working : CycleState → Bool
  | .flushing => true
  | .closing .seek => true
  | .closing .tighten => true
  | _ => false

/-- The cycle is CLOSING. -/
def CycleState.isClosing : CycleState → Bool
  | .closing _ => true
  | _ => false

/-- A run-line fall or a pitch-loss request at the sequencer (R40). -/
def State.abortWorking (s : State) (cause : AbortCause) : State :=
  if s.seq.cycle.working then s.abort cause else s

/-- An index-mismatch request at the sequencer (R41). -/
def State.abortIndex (s : State) : State :=
  if s.seq.cycle == .idle then s else s.abort .index

/-- The record is one already ABORTED. -/
def State.alreadyAborted (s : State) : Bool :=
  match s.seq.record with
  | some r => r.capVerdict == some .aborted
  | none => false

/-- The power warning at the sequencer (R42): a cycle at work is aborted, an ENDED record already ABORTED
takes a later abort, and any open record is posted at once. -/
def State.abortPower (s : State) : State :=
  match s.seq.cycle with
  | .idle => s
  | .ended => (if s.alreadyAborted then s.abort .power else s).releaseAndPost
  | _ => (s.abort .power).releaseAndPost

/-! ### Infeed (R21 to R26) -/

/-- A pending bank is taken up and BANK_CHANGED posted (R21). -/
def State.takePendingBank (s : State) : State :=
  match s.seq.pendingBank with
  | none => s
  | some b =>
    (s.withSeq { s.seq with activeBank := b, pendingBank := none }).offer (.state (.bankChanged b))

/-- The STATE notice of the lock status as it stands (R22). -/
def State.lockNotice (s : State) : Notice :=
  if s.seq.commandedLock || s.seq.selfLock then
    .state (.headLocked (lockDetail s.seq.commandedLock s.seq.selfLock))
  else .state .headUnlocked

/-- The pending lock action takes effect (R22). -/
def State.takePendingLock (s : State) : State :=
  match s.seq.pendingLock with
  | .none => s
  | .lock =>
    let s1 := s.withSeq { s.seq with commandedLock := true, pendingLock := .none }
    s1.offer s1.lockNotice
  | .restore =>
    let s1 := (s.withSeq { s.seq with commandedLock := false, pendingLock := .none }).clearFaultShut
    let s2 := s1.withSeq
      { s1.seq with selfLock := if s1.steam.valve == .faultOpen then s1.seq.selfLock else false }
    s2.offer s2.lockNotice

/-- The first values of a new record (R23). -/
def newRecord (revolution : Half) (bank : BankId) (jar : Bool) : Record :=
  { revolution := revolution, bank := bank, jarPresent := jar, voidReason := .noJar,
    temperature := none, tempSource := none, tempClamped := false, trimSnapshot := none, target := none,
    dose := 0, flushEnd := .none, steamResult := .none, valveFault := false, securityAngle := none,
    peakTorque := 0, feedbackHeld := false, capVerdict := none, abortCause := none, vPred := none }

/-- A new record is opened and the last temperature reading made absent (R23). -/
def State.openRecord (s : State) : State :=
  s.withSeq { s.seq with
    record := some (newRecord s.tracker.revolution s.seq.activeBank s.pins.jarPresent)
    lastTemp := none, reachedClosing := false }

/-- The cycle is ENDED with a cap verdict. -/
def State.endCycle (s : State) (v : CapVerdict) : State :=
  let s1 := s.onRecord fun r => { r with capVerdict := some v }
  s1.withSeq { s1.seq with cycle := .ended }

/-- The cycle is ENDED with a no-jar record and its VOID reason (R24). -/
def State.endNoJar (s : State) (why : VoidReason) : State :=
  let s1 := s.onRecord fun r => { r with voidReason := why }
  s1.withSeq { s1.seq with cycle := .ended }

/-- The self-lock is set, and HEAD_LOCKED posted when it changes (R25). -/
def State.setSelfLock (s : State) : State :=
  if s.seq.selfLock then s
  else
    let s1 := s.withSeq { s.seq with selfLock := true }
    s1.offer s1.lockNotice

/-- The prevent-start checks in their order (R24). -/
def State.preventStart (s : State) : State :=
  if s.seq.commandedLock || s.seq.selfLock then
    if s.pins.jarPresent then s.endCycle .heldOut else s.endNoJar .lockedEmpty
  else if !s.pins.jarPresent then s.endNoJar .noJar
  else if s.tracker.lock != .locked || !s.tracker.indexKnown then s.endCycle .unsynced
  else if s.steam.valve == .faultOpen || s.steam.valve == .faultShut then
    s.setSelfLock.endCycle .heldOut
  else if !s.closing.ready then s.endCycle .driveDown
  else s.withSeq { s.seq with cycle := .loading, capGate := true }

/-- A record left open at an INFEED is posted; without a cap verdict it is given ABORTED with cause
INDEX (R26). -/
def State.postLeftOver (s : State) : State :=
  if s.seq.cycle == .idle then s
  else
    (s.onRecord fun r =>
      if r.jarPresent && r.capVerdict == none then
        { r with capVerdict := some .aborted, abortCause := some .index }
      else r).releaseAndPost

/-- INFEED (R20 to R26). -/
def State.atInfeed (s : State) : State :=
  let s1 := s.postLeftOver
  if s1.pins.run then s1.takePendingBank.takePendingLock.openRecord.preventStart else s1

/-! ### The other boundaries (R27 to R36) -/

/-- PICK (R27). -/
def State.atPick (s : State) : State :=
  if s.seq.cycle == .loading then
    let s1 := s.withSeq { s.seq with capGate := false }
    if s1.pins.capPresent then s1.withSeq { s1.seq with cycle := .primed } else s1.endCycle .noCap
  else s

/-- The temperature taken at FLUSH_START (R28). -/
def State.takeTemperature (s : State) : State :=
  match s.seq.lastTemp with
  | some ⟨v, true⟩ =>
    let t := clampTemperature v
    s.onRecord fun r =>
      { r with temperature := some t, tempSource := some .sensor, tempClamped := decide ((t : Int) ≠ v) }
  | _ =>
    let t := (s.bankOf s.seq.activeBank).defaultTemp
    s.onRecord fun r => { r with temperature := some t, tempSource := some .default }

/-- The bank of the open record. -/
def State.recordBank (s : State) : BankId :=
  match s.seq.record with
  | some r => r.bank
  | none => s.seq.activeBank

/-- FLUSH_START (R28, R29). -/
def State.atFlushStart (s : State) : State :=
  if s.seq.cycle == .primed then
    if s.pins.run then
      let s1 := s.takeTemperature
      let trim := s1.verdicts.trims.get s1.recordBank
      let target := (s1.bankOf s1.recordBank).doseTarget + trim
      let s2 := s1.onRecord fun r => { r with trimSnapshot := some trim, target := some target }
      (s2.withSeq { s2.seq with cycle := .flushing }).openRequest target
    else s.abort .runOff
  else s

/-- APPLY_START (R32). -/
def State.atApplyStart (s : State) : State :=
  if s.seq.cycle == .flushing then
    if s.pins.run then
      let s1 := s.onClosing fun c => c.start (s.bankOf s.recordBank)
      s1.withSeq { s1.seq with cycle := .closing .seek, reachedClosing := true }
    else s.abort .runOff
  else s

/-- FLUSH_END (R34). -/
def State.atFlushEnd (s : State) : State :=
  if s.seq.cycle.isClosing then s.shutRequest .zoneEnd else s

/-- APPLY_END (R35). An open flush is shut with ABORT, which R34 has done before APPLY_END in every run
(log 13). -/
def State.atApplyEnd (s : State) : State :=
  match s.seq.cycle with
  | .closing .seek | .closing .tighten =>
    ((s.shutRequest .abort).onClosing Closing.stop).endCycle .unfinished
  | _ => s

/-- A DWELL cycle becomes GOOD at RELEASE with its predicted vacuum (R36, R99). -/
def State.makeGood (s : State) : State :=
  s.onRecord fun r =>
    { r with
      capVerdict := some .good
      vPred := some (predictedVacuum s.config.header.pAmb (s.bankOf r.bank).tCool (s.bankOf r.bank).purge
        (r.temperature.getD 0) r.dose) }

/-- RELEASE (R36). -/
def State.atRelease (s : State) : State :=
  match s.seq.cycle with
  | .closing .dwell => s.makeGood.releaseAndPost
  | .ended => s.releaseAndPost
  | _ => s

/-- A boundary event at the sequencer (R20). -/
def State.handBoundary (s : State) : Boundary → State
  | .infeed => s.atInfeed
  | .pick => s.atPick
  | .flushStart => s.atFlushStart
  | .applyStart => s.atApplyStart
  | .flushEnd => s.atFlushEnd
  | .applyEnd => s.atApplyEnd
  | .release => s.atRelease

/-- Boundary events in the order in which the tracker reaches them (R18, R20). -/
def State.handBoundaries (s : State) (bs : List Boundary) : State := bs.foldl State.handBoundary s

/-! ### Reports of the closing unit (R33, R85) -/

/-- What the phase test of a sample has come to (R85): neither a phase nor an ending, a phase that the unit
has entered, or an ending that it has reached. -/
inductive SampleResult where
  | stays
  | enters (sub : SubPhase)
  | ends (v : CapVerdict)
  deriving DecidableEq, Repr

/-- The report of a sample (R85): its result and the record fields it changed; a field left absent, and a
held flag left false, is one that the sample did not change. -/
structure ClosingReport where
  result : SampleResult
  securityAngle : Option Nat
  peakTorque : Option Torque
  feedbackHeld : Bool
  deriving DecidableEq, Repr

/-- The report of an event that concerns no closing. -/
def ClosingReport.nothing : ClosingReport :=
  { result := .stays, securityAngle := none, peakTorque := none, feedbackHeld := false }

/-- The record fields that a report carries are written (R85). -/
def Record.report (r : Record) (p : ClosingReport) : Record :=
  { r with
    securityAngle := p.securityAngle <|> r.securityAngle
    peakTorque := p.peakTorque.getD r.peakTorque
    feedbackHeld := r.feedbackHeld || p.feedbackHeld }

/-- The sequencer takes a report (R33, R85): while the cycle is CLOSING its fields are written, a phase
becomes the sub-phase, and an ending becomes the cap verdict of an ENDED cycle, a flush still open being shut
with ABORT. In any other cycle state it is not applied. -/
def State.takeReport (s : State) (p : ClosingReport) : State :=
  if s.seq.cycle.isClosing then
    let s1 := s.onRecord fun r => r.report p
    match p.result with
    | .stays => s1
    | .enters sub => s1.withSeq { s1.seq with cycle := .closing sub }
    | .ends v => (s1.shutRequest .abort).endCycle v
  else s

/-! ### Pending commands (R43, R44) -/

/-- The pending lock action after a LOCK or a RESTORE arrives (R44). -/
def LockAction.after (present : LockAction) (arrives : LockAction) : LockAction :=
  match present, arrives with
  | _, .lock => .lock
  | .lock, .restore => .none
  | _, .restore => .restore
  | p, .none => p

end Sys2Proof.Machine
end

