-- ==== Sys2Proof/Machine/ClosingSample.lean ====
section
/-! DEFINITION. A sample during a closing (R74 to R85): what the closing unit makes of it, and the report it
hands to the sequencer, which takes it by itself (`State.takeReport`, log 12). -/

namespace Sys2Proof.Machine

/-! ### Steps 2 to 4 of R74, within the closing unit -/

/-- Step 2 of R74: the angle is accumulated (R77). Before any angle is known, which no run reaches, the
delta is 0 (log 13). -/
def Closing.accumulate (c : Closing) (angle : Half) : Closing :=
  let delta : BitVec 32 := match c.prevAngle with
    | some p => (angle - p).signExtend 32
    | none => 0
  { c with angle := c.angle + delta, prevAngle := some angle }

/-- Step 3 of R74: the first sample sets the peak, later ones raise it (R78). -/
def Closing.updatePeak (c : Closing) (torque : Torque) : Closing :=
  { c with peak := if c.peakTaken && torque.slt c.peak then c.peak else torque, peakTaken := true }

/-- The test of SEEK (R79): the engage sets A_e and enters TIGHTEN (R80). -/
def Closing.testSeek (c : Closing) (torque : Torque) : Closing × SampleResult :=
  if (c.limit (·.tEngage) : Int) ≤ torque.toInt then
    ({ c with engageAngle := some c.angle, phase := .tighten }, .enters .tighten)
  else if (c.limit (·.sMax) : Int) < c.angle.toInt then (c.park, .ends .noEngage)
  else (c, .stays)

/-- The security angle s = A − A_e (R81). -/
def Closing.security (c : Closing) : Int := (c.angle - c.engageAngle.getD c.angle).toInt

/-- The greatest security angle a record holds (R81). -/
def securityCap : Nat := 16384

/-- A seated cap enters DWELL (R82). -/
def Closing.seat (c : Closing) : Closing :=
  { c.inForce (.hold (c.limit (·.tFinal))) with phase := .dwell, slip := 0 }

/-- The test of TIGHTEN (R81). -/
def Closing.testTighten (c : Closing) (torque : Torque) : Closing × SampleResult :=
  if (c.limit (·.tFinal) : Int) ≤ torque.toInt then
    if c.security < c.limit (·.aMin) then (c.park, .ends .cross)
    else if c.security ≤ c.limit (·.aMax) then (c.seat, .enters .dwell)
    else (c.park, .ends .skip)
  else if (c.limit (·.aMax) : Int) < c.security then (c.park, .ends .skip)
  else (c, .stays)

/-- The slip count at which one more low sample ends the closing (R83). -/
def slipLimit : Nat := 3

/-- The test of DWELL (R83). -/
def Closing.testDwell (c : Closing) (torque : Torque) : Closing × SampleResult :=
  if torque.toInt < (c.limit (·.tHold) : Int) then
    if slipLimit ≤ c.slip then (c.park, .ends .slipped) else ({ c with slip := c.slip + 1 }, .stays)
  else ({ c with slip := 0 }, .stays)

/-- Step 4 of R74: the test of the present phase. -/
def Closing.testPhase (c : Closing) (torque : Torque) : Closing × SampleResult :=
  match c.phase with
  | .seek => c.testSeek torque
  | .tighten => c.testTighten torque
  | .dwell => c.testDwell torque
  | _ => (c, .stays)

/-- The security angle that a sample's test has written: 0 at the engage (R80), s within its range in
TIGHTEN (R81). -/
def Closing.angleWritten (c : Closing) (result : SampleResult) : Option Nat :=
  match c.phase, result with
  | .seek, .enters _ => some 0
  | .tighten, _ => some (clampNat 0 securityCap c.security)
  | _, _ => none

/-- Steps 2 to 5 of R74 with the supplied torque and angle: the closing unit after the sample, and the
report of it (R85). -/
def Closing.handle (c : Closing) (torque : Torque) (angle : Half) (held : Bool) : Closing × ClosingReport :=
  let c1 := (c.accumulate angle).updatePeak torque
  let tested := c1.testPhase torque
  (tested.1,
    { result := tested.2, securityAngle := c1.angleWritten tested.2, peakTorque := some c1.peak,
      feedbackHeld := held })

/-! ### The closing unit's part of a sample event -/

/-- A sample that supplies values is handled, and an engage is sent to the steam unit (R74, R80). -/
def State.unitHandles (s : State) (torque : Torque) (angle : Half) (held : Bool) : State × ClosingReport :=
  let handled := s.closing.handle torque angle held
  let s1 := s.withClosing handled.1
  (if handled.2.result = .enters .tighten then s1.shutRequest .engage else s1, handled.2)

/-- A held sample supplies the last good values (R75). With none, which no run reaches, it supplies
nothing (log 13). -/
def State.unitHolds (s : State) : State × ClosingReport :=
  match s.closing.lastTorque, s.closing.lastAngle with
  | some t, some a => s.unitHandles t a true
  | _, _ => (s, { ClosingReport.nothing with feedbackHeld := true })

/-- A second bad sample in a row: STOP, PARKED, FEEDBACK_LOSSES, and the ending FEEDBACK_LOST (R76). -/
def State.unitLoses (s : State) : State × ClosingReport :=
  ((s.onClosing Closing.park).countHead fun c => { c with feedbackLosses := c.feedbackLosses + 1 },
    { ClosingReport.nothing with result := .ends .feedbackLost })

/-- A bad or missing sample (R69, R70): counted; in a closing held when it is the first in a row, the loss
of the feedback when it is not; outside a closing it goes no further (R75, R76, R88). -/
def State.unitTakesBad (s : State) : State × ClosingReport :=
  let s1 := (s.onClosing Closing.takeBad).countHead fun c => { c with badSamples := c.badSamples + 1 }
  if s1.closing.phase.running then
    if s1.closing.badRun ≤ 1 then s1.unitHolds else s1.unitLoses
  else (s1, .nothing)

/-- A good sample (R69, R74); outside a closing it goes no further (R88). -/
def State.unitTakesGood (s : State) (d : DriveSample) : State × ClosingReport :=
  let s1 := s.onClosing fun c => c.takeGood d
  if s1.closing.phase.running then s1.unitHandles d.torque d.angle false else (s1, .nothing)

/-- The closing unit takes a sample event. An arrival moves the deadline, the command in force is sent again,
and the sample is handled (R69, R72). A missing sample is taken once the time base has reached the deadline,
and the next deadline stands 600 µs after the moment this one was reached (R70). -/
def State.unitTakes (s : State) (e : SampleEvent) : State × ClosingReport :=
  if s.headRuns then
    match e with
    | .arrival d =>
      let s1 := s.onClosing fun c => { c.resend with deadline := s.timeBase + sampleGap }
      if sampleGood d then s1.unitTakesGood d else s1.unitTakesBad
    | .missing =>
      if reached s.timeBase s.closing.deadline then
        let s1 := s.onClosing fun c => { c with deadline := c.deadline + sampleGap }
        (s1.countHead fun c => { c with driveTimeouts := c.driveTimeouts + 1 }).unitTakesBad
      else (s, .nothing)
  else (s, .nothing)

/-! ### The report and the sequencer (R33, R85) -/

/-- A sample event whose report the sequencer takes at once. -/
def State.takeSample (s : State) (e : SampleEvent) : State :=
  let taken := s.unitTakes e
  taken.1.takeReport taken.2

/-- A command's effect `f` with a sample event ahead of it: the closing unit takes the event first, and the
sequencer takes its report last (R85 to R87, log 12). -/
def State.afterSample (s : State) (ahead : Option SampleEvent) (f : State → State) : State :=
  match ahead with
  | none => f s
  | some e =>
    let taken := s.unitTakes e
    (f taken.1).takeReport taken.2

end Sys2Proof.Machine
end

