-- ==== Sys2Proof/Machine/ClosingUnit.lean ====
section
/-! DEFINITION. The meanings of the drive-line commands (R69, R70). -/

namespace Sys2Proof.Machine

/-- DRIVE_SAMPLE (R69, R72, R74). -/
def execDriveSample (t : Time) (sample : DriveSample) (s : State) : Host.Outcome State Fault Refusal :=
  .next ((s.enter t).takeSample (.arrival sample))

/-- SAMPLE_DEADLINE (R70). -/
def execSampleDeadline (t : Time) (s : State) : Host.Outcome State Fault Refusal :=
  .next ((s.enter t).takeSample .missing)

end Sys2Proof.Machine
end

