-- ==== Sys2Proof/Machine/CommandOps.lean ====
section
/-! DEFINITION. COMMAND notices (R177, R178): the tests in their order, what each op does, and reports
(R180). -/

namespace Sys2Proof.Machine

/-! ### What each op does (R178) -/

/-- SELECT-BANK (R43, R178): a head takes a usable bank as its pending bank. -/
def State.opSelectBank (s : State) (arg : Byte) : State :=
  if s.node.role == .head && s.config.usable.get (BitVec.ofNat 2 arg.toNat) then
    s.withSeq { s.seq with pendingBank := some (BitVec.ofNat 2 arg.toNat) }
  else s.refuseCommand

/-- LOCK and RESTORE (R44, R178): a head's pending lock action changes. -/
def State.opLockAction (s : State) (arrives : LockAction) : State :=
  if s.node.role == .head then
    s.withSeq { s.seq with pendingLock := s.seq.pendingLock.after arrives }
  else s.refuseCommand

/-- TRIM-RESET (R132, R178): a head's verdict list acts at once. -/
def State.opTrimReset (s : State) : State :=
  if s.node.role == .head then s.resetTrims else s.refuseCommand

/-- CLEAR-COUNTS (R179): every live counter becomes 0, and an outstanding report clears nothing. -/
def State.opClearCounts (s : State) : State :=
  let s1 := s.withCounters Counters.zero
  if s1.config.reportOutstanding then s1.withConfig { s1.config with clearPending := false } else s1

/-- RELEASE-STOP (R170, R178): the check node's set stop latch is released. -/
def State.opReleaseStop (s : State) : State :=
  if s.node.role == .check && s.reject.stop then
    (s.withReject { s.reject with stop := false, consecutive := 0 }).offer (.state .stopReleased)
  else s.refuseCommand

/-! ### REPORT (R180) -/

/-- The REPORT argument that asks for the lifetime counters, and the one that asks for a clear (R180,
section 6.7). -/
def lifetimeArg : Byte := 2#8
/-- See `lifetimeArg`. -/
def clearArg : Byte := 1#8

/-- The lifetime counters as a snapshot (R180). -/
def Lifetime.values (l : Lifetime) : List Count := [l.one, l.two, l.three, l.four]

/-- The snapshot a request takes (R180 step 2). -/
def State.reportSnapshot (s : State) (arg : Byte) : List Count :=
  if arg == lifetimeArg then s.config.lifetime.values else s.counters.live s.node.role

/-- The pages a request offers, in order (R180 step 3). -/
def reportPages (arg : Byte) : List Nat := if arg == lifetimeArg then [5] else [0, 1, 2, 3, 4]

/-- A page that the queue takes: the link is ACTIVE and the queue has room, since no kind is above that of
a REPORT (R114, R117). -/
def State.takesPage (s : State) : Bool :=
  s.link.state == .active && decide (s.link.queue.length < queueCapacity)

/-- A page is offered and counted as taken or refused (R180 steps 3 and 4). -/
def State.offerPage (s : State) (snap : List Count) (page : Nat) : State :=
  let s1 := s.offer (reportPage page snap)
  if s.takesPage then s1.withConfig { s1.config with pagesInQueue := s1.config.pagesInQueue + 1 }
  else s1.withConfig { s1.config with pagesLost := true }

/-- The snapshot is taken and the report begins (R180 step 2). -/
def State.beginReport (s : State) (arg : Byte) : State :=
  s.withConfig { s.config with
    reportOutstanding := true, snapshot := some (s.reportSnapshot arg), clearPending := arg == clearArg,
    pagesInQueue := 0, pagesLost := false }

/-- Pages are offered one after another (R180 step 3). -/
def State.offerPages (s : State) (snap : List Count) (pages : List Nat) : State :=
  pages.foldl (fun s p => s.offerPage snap p) s

/-- A report of which the queue took no page ends at once (R180 step 4). -/
def State.endEmptyReport (s : State) : State :=
  if s.config.pagesInQueue = 0 then
    s.withConfig { s.config with reportOutstanding := false, snapshot := none }
  else s

/-- REPORT (R180). -/
def State.opReport (s : State) (arg : Byte) : State :=
  if s.config.reportOutstanding then s.refuseCommand
  else ((s.beginReport arg).offerPages (s.reportSnapshot arg) (reportPages arg)).endEmptyReport

/-! ### The tests (R177) -/

/-- Test 4: the op is one of 1..7 and its argument is in range; the other ops' arguments are not
examined. -/
def commandInRange (op arg : Byte) : Bool :=
  decide (1 ≤ op.toNat ∧ op.toNat ≤ 7) && !(op == 1#8 && decide (3 < arg.toNat))
    && !(op == 6#8 && decide (2 < arg.toNat))

/-- Test 5: the op, known to be one of 1..7, is carried out or refused (R178). -/
def State.carryOut (s : State) (op arg : Byte) : State :=
  match op.toNat with
  | 1 => s.opSelectBank arg
  | 2 => s.opLockAction .lock
  | 3 => s.opLockAction .restore
  | 4 => s.opTrimReset
  | 5 => s.opClearCounts
  | 6 => s.opReport arg
  | 7 => s.opReleaseStop
  | _ => s.refuseCommand

/-- Tests 4 and 5. -/
def State.testOp (s : State) (op arg : Byte) : State :=
  if commandInRange op arg then s.carryOut op arg else s.refuseCommand

/-- The tests of R177 in their order: sender, mask, node state, op and argument, applicability. In SAVED
and in START a command has no effect, but one from another sender is still refused (log 18). -/
def State.testCommand (s : State) (sender : Address) (mask : BitVec 32) (op arg : Byte) : State :=
  if !isController sender then s.refuseCommand
  else if !maskNames mask s.node.address then s
  else
    match s.node.mode with
    | .operating => s.testOp op arg
    | .halted => if op == 6#8 then s.testOp op arg else s.refuseCommand
    | .saved => s
    | .start => s

/-- A COMMAND notice with its op arrives (R112, R177). -/
def State.takeCommand (s : State) (sender : Address) (mask : BitVec 32) (op arg : Byte) : State :=
  s.receive sender fun s => s.testCommand sender mask op arg

end Sys2Proof.Machine
end

