-- ==== Sys2Proof/Machine/Commands.lean ====
section
/-! DEFINITION. The meanings of COMMAND notices (R177 to R180). -/

namespace Sys2Proof.Machine

/-- SELECT_BANK (R43, R177, R178): a COMMAND with op 1. -/
def execSelectBank (t : Time) (sender : Address) (mask : BitVec 32) (arg : Byte) (s : State) :
    Host.Outcome State Fault Refusal :=
  .next ((s.enter t).takeCommand sender mask 1#8 arg)

/-- LOCK (R44, R177, R178): a COMMAND with op 2. -/
def execLock (t : Time) (sender : Address) (mask : BitVec 32) (arg : Byte) (s : State) :
    Host.Outcome State Fault Refusal :=
  .next ((s.enter t).takeCommand sender mask 2#8 arg)

/-- RESTORE (R44, R177, R178): a COMMAND with op 3. -/
def execRestore (t : Time) (sender : Address) (mask : BitVec 32) (arg : Byte) (s : State) :
    Host.Outcome State Fault Refusal :=
  .next ((s.enter t).takeCommand sender mask 3#8 arg)

/-- TRIM_RESET (R132, R177, R178): a COMMAND with op 4. -/
def execTrimReset (t : Time) (sender : Address) (mask : BitVec 32) (arg : Byte) (s : State) :
    Host.Outcome State Fault Refusal :=
  .next ((s.enter t).takeCommand sender mask 4#8 arg)

/-- CLEAR_COUNTS (R177 to R179): a COMMAND with op 5. -/
def execClearCounts (t : Time) (sender : Address) (mask : BitVec 32) (arg : Byte) (s : State) :
    Host.Outcome State Fault Refusal :=
  .next ((s.enter t).takeCommand sender mask 5#8 arg)

/-- REPORT (R177, R178, R180): a COMMAND with op 6. -/
def execReport (t : Time) (sender : Address) (mask : BitVec 32) (arg : Byte) (s : State) :
    Host.Outcome State Fault Refusal :=
  .next ((s.enter t).takeCommand sender mask 6#8 arg)

/-- RELEASE_STOP (R170, R177, R178): a COMMAND with op 7. -/
def execReleaseStop (t : Time) (sender : Address) (mask : BitVec 32) (arg : Byte) (s : State) :
    Host.Outcome State Fault Refusal :=
  .next ((s.enter t).takeCommand sender mask 7#8 arg)

/-- COMMAND_OP_UNKNOWN (R177): a COMMAND with the op byte as received (log 26). -/
def execCommandOpUnknown (t : Time) (sender : Address) (mask : BitVec 32) (op arg : Byte) (s : State) :
    Host.Outcome State Fault Refusal :=
  .next ((s.enter t).takeCommand sender mask op arg)

end Sys2Proof.Machine
end

