-- ==== Sys2Proof/Machine/LinkEvents.lean ====
section
/-! DEFINITION. The meanings of the link controller's own commands (R105 to R114). -/

namespace Sys2Proof.Machine

/-- An ACTIVE link has a frame of its own on the wire. -/
def State.transmitting (s : State) : Bool := s.link.state == .active && s.link.sending

/-- An ACTIVE link begins the frame of its first entry (R107, R116); with nothing queued, or with a frame
of its own on the wire, it begins none. -/
def State.startFrame (s : State) : State :=
  match s.link.queue with
  | [] => s
  | e :: _ =>
    if s.link.state == .active && !s.link.sending then
      s.withLink
        { s.link with
          queue := startFirst s.link.queue, wire := frameBits s.node.address e.notice
          shutOvertaken := false }
    else s

/-- FRAME_START (R107): the line is idle, so any frame that was on it has ended (R109). -/
def execFrameStart (t : Time) (s : State) : Host.Outcome State Fault Refusal :=
  let s := s.enter t
  .next s.frameOver.startFrame

/-- CONTEST_LOST (R108): the notice stays in the queue, and no count changes. -/
def execContestLost (t : Time) (s : State) : Host.Outcome State Fault Refusal :=
  let s := s.enter t
  .next
    (if s.transmitting then s.withLink s.link.groundFrame else s)

/-- A transmit error of the frame in flight (R109, R114): at the sixteenth in a row the link becomes MUTE,
at once when nothing else is on the wire, else when that frame has ended (log 15). -/
def State.failFrame (s : State) (lineBusy : Bool) : State :=
  let s1 := (s.withLink s.link.groundFrame).countLink
    fun c => { c with txErrors := c.txErrors + 1 }
  let s2 := s1.withLink { s1.link with errors := min muteErrors (s1.link.errors + 1) }
  if muteErrors ≤ s2.link.errors then
    if lineBusy then s2.withLink { s2.link with mutePending := true } else s2.enterMute
  else s2

/-- TRANSMIT_ERROR (R109). -/
def execTransmitError (t : Time) (lineBusy : Bool) (s : State) : Host.Outcome State Fault Refusal :=
  let s := s.enter t
  .next (if s.transmitting then s.failFrame lineBusy else s)

/-- The frame in flight has been sent (R110): its entry leaves the queue, the consecutive transmit-error
count returns to 0, and a page of a report has left the queue (R181). -/
def State.finishFrame (s : State) : State :=
  let page := s.link.queue.any fun e => e.inFlight && e.notice.isReport
  let s1 := s.withLink { s.link.withQueue (waitingOf s.link.queue) with errors := 0 }
  if page then s1.pageLeft false else s1

/-- FRAME_SENT (R110). -/
def execFrameSent (t : Time) (s : State) : Host.Outcome State Fault Refusal :=
  let s := s.enter t
  .next (if s.transmitting then s.finishFrame else s)

/-- A frame is discarded by the tests of R111. -/
def frameIsBad (bits : List Bool) : Bool :=
  match readFrame bits with
  | .bad _ => true
  | .valid _ _ _ => false

/-- RX_FRAME_ERROR (R111): a frame that fails a test is counted once; bits that pass every test are no
error (log 16). -/
def execRxFrameError (t : Time) (bits : List Bool) (s : State) : Host.Outcome State Fault Refusal :=
  let s := s.enter t
  .next
    (if s.link.receives && frameIsBad bits then
      (s.countLink fun c => { c with rxErrors := c.rxErrors + 1 }).frameOver
    else s)

/-- DUPLICATE_ADDRESS (R113): a valid frame of any kind with the node's own address. -/
def execDuplicateAddress (t : Time) (s : State) : Host.Outcome State Fault Refusal :=
  let s := s.enter t
  .next (if s.link.receives then s.takeDuplicate.frameOver else s)

end Sys2Proof.Machine
end

