-- ==== Sys2Proof/Machine/Notices.lean ====
section
/-! DEFINITION. The meanings of received notices (R60, R112, R120, R124 to R126, R137 to R144). Each is
delivered to the blocks of the node's role that take its kind; a block that takes no events is not
reached. -/

namespace Sys2Proof.Machine

/-- The roster of a head hears a notice from a peer (R60). -/
def State.hearPeer (s : State) (sender : Address) (st : RosterState) : State :=
  if s.headRuns then s.setRoster sender.toNat st else s

/-- STEAM_OPEN_RECEIVED (R60): the entry becomes OPEN until now plus the roster expiry. -/
def execSteamOpenReceived (t : Time) (sender : Address) (s : State) :
    Host.Outcome State Fault Refusal :=
  .next ((s.enter t).receive sender fun s =>
    s.hearPeer sender (.opened (s.timeBase + msTime s.config.header.rosterMs)))

/-- STEAM_SHUT_RECEIVED (R60). -/
def execSteamShutReceived (t : Time) (sender : Address) (s : State) :
    Host.Outcome State Fault Refusal :=
  .next ((s.enter t).receive sender fun s => s.hearPeer sender .closed)

/-- The roster state a VALVE-FAULT's fault-state byte gives; a value no table gives has no case (R60,
R120). -/
def faultRoster (faultState : Byte) : Option RosterState :=
  if faultState == ValveFaultState.stuckOpen.code then some .stuck
  else if faultState == ValveFaultState.stuckShut.code then some .closed
  else if faultState == ValveFaultState.cleared.code then some .closed
  else none

/-- VALVE_FAULT_RECEIVED (R60, R120). -/
def execValveFaultReceived (t : Time) (sender : Address) (faultState : Byte) (s : State) :
    Host.Outcome State Fault Refusal :=
  .next ((s.enter t).receive sender fun s =>
    match faultRoster faultState with
    | some st => s.hearPeer sender st
    | none => s)

/-- The address of the check node (00_scope.md, Stations and addresses). -/
def checkAddress : Address := 24#5

/-- A JOIN is delivered (R60, R126, R139): its payload is examined by no block. -/
def State.hearJoin (s : State) (sender : Address) : State :=
  if s.headRuns then
    let s1 := s.setRoster sender.toNat .closed
    if sender == checkAddress then s1.forgetAwaited else s1
  else if s.checkRuns then s.forgetRevolution sender
  else s

/-- JOIN_RECEIVED (R60, R126, R139). -/
def execJoinReceived (t : Time) (sender : Address) (_payload : JoinPayload) (s : State) :
    Host.Outcome State Fault Refusal :=
  .next ((s.enter t).receive sender fun s => s.hearJoin sender)

/-- The verdict list takes a VERDICT from address 24 that names this head (R124). -/
def State.takesVerdict (s : State) (sender : Address) (p : VerdictPayload) : Bool :=
  s.headRuns && sender == checkAddress && p.head.toNat == s.own

/-- VERDICT_RECEIVED (R124, R125). -/
def execVerdictReceived (t : Time) (sender : Address) (payload : VerdictPayload) (s : State) :
    Host.Outcome State Fault Refusal :=
  .next ((s.enter t).receive sender fun s =>
    if s.takesVerdict sender payload then s.matchVerdict payload else s)

/-- SEAL_RECEIVED (R137 to R144). -/
def execSealReceived (t : Time) (sender : Address) (payload : SealPayload) (s : State) :
    Host.Outcome State Fault Refusal :=
  .next ((s.enter t).receive sender fun s =>
    if s.checkRuns then s.takeSeal sender payload else s)

/-- VOID_RECEIVED (R137 to R144). -/
def execVoidReceived (t : Time) (sender : Address) (payload : VoidPayload) (s : State) :
    Host.Outcome State Fault Refusal :=
  .next ((s.enter t).receive sender fun s =>
    if s.checkRuns then s.takeVoid sender payload else s)

end Sys2Proof.Machine
end

