-- ==== Sys2Proof/WellFormed.lean ====
section
/-! DEFINITION. Which operands a command of the SN416 can carry. The meanings in Machine/ are total and do
not depend on these checks. -/

namespace Sys2Proof

/-- The bytes a save writes: the active bank, four trims, four lifetime counters, the marker (R186). -/
def saveLength : Nat := 26

/-- The longest frame has a payload of 20 bytes: 36 + 9·20 bits with its start bit (R105). -/
def longestFrameAfterStart : Nat := 215

/-- A command is well formed when its operands lie in the ranges its rules give. -/
def Instr.wellFormed : Instr → Bool
  -- no more bytes of a save can have been written than it has (R186, R187)
  | .powerOnReset _ cut _ => decide (cut ≤ saveLength)
  | .resetLine _ cut => decide (cut ≤ saveLength)
  -- a roster entry belongs to a head, and heads have addresses below 24 (R45, R174)
  | .rosterExpiry _ peer => decide (peer.toNat < 24)
  -- no frame is longer than the longest payload makes it (R105)
  | .rxFrameError _ bits => decide (bits.length ≤ longestFrameAfterStart)
  -- an op of 1..7 is one of the other COMMAND rows (R177)
  | .commandOpUnknown _ _ _ op _ => decide (op.toNat = 0 ∨ 7 < op.toNat)
  | .crystalReady _ => true
  | .crystalWaitExpiry _ => true
  | .powerWarningAsserted _ => true
  | .saveComplete _ _ => true
  | .powerWarningNegated _ _ => true
  | .turretPulse _ _ _ => true
  | .pitchLossDeadline _ => true
  | .phaseBoundary _ _ => true
  | .runLineFall _ => true
  | .runLineRise _ => true
  | .temperatureReading _ _ => true
  | .valveFeedbackChange _ _ => true
  | .settleTimerExpiry _ => true
  | .doseTick _ => true
  | .driveSample _ _ => true
  | .sampleDeadline _ => true
  | .frameStart _ => true
  | .contestLost _ => true
  | .transmitError _ _ => true
  | .frameSent _ => true
  | .duplicateAddress _ => true
  | .steamOpenReceived _ _ => true
  | .steamShutReceived _ _ => true
  | .valveFaultReceived _ _ _ => true
  | .joinReceived _ _ _ => true
  | .verdictReceived _ _ _ => true
  | .sealReceived _ _ _ => true
  | .voidReceived _ _ _ => true
  | .conveyorAdvance _ _ => true
  | .transitWindowClose _ => true
  | .jarEdge _ => true
  | .panelReading _ _ => true
  | .readingWindowClose _ => true
  | .gatePositionReached _ => true
  | .rejectPulseEnd _ => true
  | .selectBank _ _ _ _ => true
  | .lock _ _ _ _ => true
  | .restore _ _ _ _ => true
  | .trimReset _ _ _ _ => true
  | .clearCounts _ _ _ _ => true
  | .report _ _ _ _ => true
  | .releaseStop _ _ _ _ => true

end Sys2Proof
end

