-- ==== Sys2Proof/Machine/ConfigOps.lean ====
section
/-! DEFINITION. Reading and checking the configuration memory (10.1, R173 to R175) and the bytes of the
persistent area (10.1, R184, R186). -/

namespace Sys2Proof.Machine

/-! ### Fields -/

/-- The one-byte field at an offset. -/
def byteField (bs : List Byte) (i : Nat) : Nat := (bs.getD i 0).toNat

/-- The two-byte field at an offset, most significant byte first. -/
def halfField (bs : List Byte) (i : Nat) : Nat := natOfBytes ((bs.drop i).take 2)

/-- The signed two-byte field at an offset. -/
def signedField (bs : List Byte) (i : Nat) : Int := (BitVec.ofNat 16 (halfField bs i)).toInt

/-- The four-byte field at an offset. -/
def countField (bs : List Byte) (i : Nat) : Count := BitVec.ofNat 32 (natOfBytes ((bs.drop i).take 4))

/-- The header's 64 bytes (10.1); a P_amb field of 0 stands for 1013 (R174). -/
def readHeader (bs : List Byte) : Header :=
  { formatId := byteField bs 0, n := byteField bs 1, pick := halfField bs 2,
    flushStart := halfField bs 4, applyStart := halfField bs 6, flushEnd := halfField bs 8,
    applyEnd := halfField bs 10, release := halfField bs 12, k := byteField bs 14,
    qn := byteField bs 15, settleMs := byteField bs 16, rosterMs := halfField bs 18,
    pAmb := if halfField bs 20 = 0 then 1013 else halfField bs 20, initialBank := byteField bs 22,
    dTravel := halfField bs 24, w := byteField bs 26, rRead := halfField bs 28, gGate := halfField bs 30,
    pulseMs := byteField bs 32, nStop := byteField bs 33, m := byteField bs 34,
    storedSignature := BitVec.ofNat 16 (halfField bs 62) }

/-- The eight points of a purge table (10.1, R95). -/
def readPurge (bs : List Byte) : List (Nat × Nat) :=
  (List.range 8).map fun k => (halfField bs (34 + 4 * k), halfField bs (36 + 4 * k))

/-- A bank's 96 bytes (10.1). -/
def readBank (bs : List Byte) : Bank :=
  { marker := bs.getD 0 0, doseTarget := halfField bs 2, trimStep := halfField bs 4,
    trimMax := halfField bs 6, trimMargin := halfField bs 8, defaultTemp := halfField bs 10,
    tEngage := halfField bs 12, tFinal := halfField bs 14, tHold := halfField bs 16,
    spinSpeed := halfField bs 18, sMax := halfField bs 20, aMin := halfField bs 22,
    aMax := halfField bs 24, tCool := halfField bs 26, vMin := halfField bs 28,
    fallbackMargin := halfField bs 30, deviation := halfField bs 32, purge := readPurge bs,
    d0 := signedField bs 66, gain := halfField bs 68 }

/-- The persistent area's bytes (10.1). -/
def readPersistent (bs : List Byte) : Persistent :=
  { marker := bs.getD 0 0, activeBank := bs.getD 1 0,
    trims := ⟨BitVec.ofNat 16 (halfField bs 2), BitVec.ofNat 16 (halfField bs 4),
              BitVec.ofNat 16 (halfField bs 6), BitVec.ofNat 16 (halfField bs 8)⟩,
    lifetime := ⟨countField bs 10, countField bs 14, countField bs 18, countField bs 22⟩ }

/-- The config signature: a CRC-16 over header bytes 0..61 and bytes 64..447 (R173). -/
def configSignature (bs : List Byte) : Half :=
  crc16 (bitsOfBytes (bs.take 62 ++ (bs.drop 64).take 384))

/-! ### Checks -/

/-- A value lies in a range, both ends included. -/
def inRange (lo hi x : Nat) : Bool := decide (lo ≤ x ∧ x ≤ hi)

/-- The boundaries stand in the order of section 1.6, RELEASE below N×256. -/
def Header.ordered (h : Header) : Bool :=
  decide (0 < h.pick ∧ h.pick < h.flushStart ∧ h.flushStart < h.applyStart ∧ h.applyStart ≤ h.flushEnd
    ∧ h.flushEnd < h.applyEnd ∧ h.applyEnd ≤ h.release ∧ h.release < h.n * 256)

/-- The header's ranges and order (R174), but for the signature and the initial bank. -/
def Header.fieldsOk (h : Header) : Bool :=
  h.formatId == 1 && inRange 6 24 h.n && h.ordered && inRange 1 24 h.k && inRange 1 255 h.qn
    && inRange 5 100 h.settleMs && inRange 50 2000 h.rosterMs && inRange 700 1100 h.pAmb
    && inRange 0 3 h.initialBank && inRange 100 60000 h.dTravel && inRange 1 200 h.w
    && inRange 10 1000 h.rRead && decide (h.rRead < h.gGate) && inRange 20 10000 h.gGate
    && inRange 5 200 h.pulseMs && inRange 0 255 h.nStop && inRange 1 255 h.m

/-- A purge table's doses ascend strictly and its fractions, within 0..1024, do not rise (R95). -/
def purgeOk : List (Nat × Nat) → Bool
  | [] => true
  | [p] => decide (p.2 ≤ 1024)
  | p :: q :: rest => decide (p.1 < q.1 ∧ q.2 ≤ p.2 ∧ p.2 ≤ 1024) && purgeOk (q :: rest)

/-- A bank is usable: its valid marker is 5A hex and every range of its table holds (R175). -/
def Bank.usable (b : Bank) (pAmb : Nat) : Bool :=
  b.marker == 0x5A#8 && inRange 1 60000 b.doseTarget && inRange 1 1000 b.trimStep
    && inRange 0 5000 b.trimMax && decide (b.doseTarget + b.trimMax ≤ 65000)
    && inRange 0 500 b.trimMargin && inRange 0 1000 b.defaultTemp && inRange 10 500 b.tEngage
    && inRange 50 1500 b.tFinal && decide (b.tEngage < b.tHold ∧ b.tHold < b.tFinal)
    && inRange 10 600 b.spinSpeed && inRange 1 20480 b.sMax && inRange 0 16384 b.aMin
    && inRange b.aMin 16384 b.aMax && inRange 0 400 b.tCool && inRange 0 pAmb b.vMin
    && inRange 0 500 b.fallbackMargin && inRange 0 1100 b.deviation && purgeOk b.purge
    && decide (-500 ≤ b.d0 ∧ b.d0 ≤ 500) && inRange 1 4095 b.gain

/-- A bank number written in a byte or header field names a usable bank. -/
def usableNumber (usable : PerBank Bool) (b : Nat) : Bool :=
  decide (b ≤ 3) && usable.get (BitVec.ofNat 2 b)

/-- The header passes every check of R174, the initial-bank test last. -/
def headerPasses (h : Header) (signature : Half) (usable : PerBank Bool) : Bool :=
  h.storedSignature == signature && h.fieldsOk && usableNumber usable h.initialBank

/-! ### The persistent area -/

/-- The address of the persistent area's first byte (10.1). -/
def persistentBase : Nat := 448

/-- The clean marker's valid value (10.1). -/
def cleanMarker : Byte := 0xA5#8

/-- Bytes to be stored from an address on, in address order. -/
def writesFrom : Nat → List Byte → List (Nat × Byte)
  | _, [] => []
  | a, b :: bs => (a, b) :: writesFrom (a + 1) bs

/-- The bytes of a save in the order of R186: active bank, trims, lifetime counters, and the clean marker
last. Within a field the bytes go in address order (DESIGN CHOICE, log 9). -/
def saveWrites (p : Persistent) : List (Nat × Byte) :=
  writesFrom (persistentBase + 1)
      ([p.activeBank] ++ bytesOfHalf p.trims.b0 ++ bytesOfHalf p.trims.b1 ++ bytesOfHalf p.trims.b2
        ++ bytesOfHalf p.trims.b3 ++ bytesOfCount p.lifetime.one ++ bytesOfCount p.lifetime.two
        ++ bytesOfCount p.lifetime.three ++ bytesOfCount p.lifetime.four)
    ++ [(persistentBase, p.marker)]

/-- What the node saves (R186): the active bank and the trims of a head, 0 for the check node, the
lifetime counters, and the valid marker. -/
def State.savedImage (s : State) : Persistent :=
  if s.node.role == .head then
    { marker := cleanMarker, activeBank := bankByte s.seq.activeBank,
      trims := s.verdicts.trims.map (BitVec.ofNat 16), lifetime := s.config.lifetime }
  else
    { marker := cleanMarker, activeBank := 0, trims := PerBank.all 0, lifetime := s.config.lifetime }

end Sys2Proof.Machine
end

