-- ==== Sys2Proof/Machine/TrackerOps.lean ====
section
/-! DEFINITION. The pitch tracker (Chapter 1): the classification of pulses, the pitch estimate and lock,
and the boundaries a pulse or a phase change reaches. -/

namespace Sys2Proof.Machine

/-- A close pulse follows its pitch pulse within 4,000 µs (R2). -/
def closePulseUs : Int := 4000

/-- How a pulse on the turret line is classified (R2). -/
inductive PulseClass where
  | indexMark
  | extraClose
  | counted
  deriving DecidableEq, Repr

/-- The classification of R2. -/
def Tracker.classify (tr : Tracker) (t : Time) : PulseClass :=
  match tr.lastPulse with
  | none => .counted
  | some l =>
    if 0 ≤ since t l ∧ since t l < closePulseUs then
      if tr.markTaken then .extraClose else .indexMark
    else .counted

/-- A measured period is valid in 50,000..4,000,000 µs (R7). -/
def periodValid (m : Int) : Bool := decide (50000 ≤ m ∧ m ≤ 4000000)

/-- A measured period is in window: valid and within a quarter of E (R7). -/
def periodInWindow (e : Nat) (m : Int) : Bool :=
  periodValid m && decide ((e : Int) - (e / 4 : Nat) ≤ m ∧ m ≤ (e : Int) + (e / 4 : Nat))

/-- E moved toward a period by a fraction of their difference, truncated toward zero (R8, R10). -/
def movePitch (e : Nat) (m : Int) (part : Int) : Nat := ((e : Int) + Int.tdiv (m - e) part).toNat

/-- The in-window periods that lock the tracker (R9). -/
def lockCount : Nat := 8

/-- The misses of which one more is a pitch loss (R10). -/
def missLimit : Nat := 2

/-- A measured period in ACQUIRE (R8, R9). -/
def Tracker.acquireUpdate (tr : Tracker) (m : Int) : Tracker :=
  match tr.pitch with
  | none => if periodValid m then { tr with pitch := some m.toNat } else tr
  | some e =>
    if periodValid m then
      let moved := some (movePitch e m 4)
      if periodInWindow e m then
        if lockCount ≤ tr.inWindow + 1 then
          { tr with pitch := moved, lock := .locked, inWindow := 0, miss := 0 }
        else { tr with pitch := moved, inWindow := tr.inWindow + 1 }
      else { tr with pitch := moved, inWindow := 0 }
    else { tr with inWindow := 0 }

/-- The tracker's part of a pitch loss (R12). -/
def Tracker.lose (tr : Tracker) : Tracker := { tr with lock := .acquire, inWindow := 0, miss := 0 }

/-- A pitch loss (R12): the tracker, the counter, and the abort request. -/
def State.pitchLoss (s : State) : State :=
  ((s.withTracker s.tracker.lose).countHead
    fun c => { c with pitchLoss := c.pitchLoss + 1 }).abortWorking .pitch

/-- A measured period in LOCKED (R10). -/
def State.lockedUpdate (s : State) (m : Int) : State :=
  let e := s.tracker.pitch.getD 0
  if periodInWindow e m then
    s.withTracker { s.tracker with pitch := some (movePitch e m 8), miss := 0 }
  else if missLimit ≤ s.tracker.miss then s.pitchLoss
  else s.withTracker { s.tracker with miss := s.tracker.miss + 1 }

/-- A measured period is handed to the lock logic of the present state (R3, R8, R10). -/
def State.takePeriod (s : State) (m : Int) : State :=
  match s.tracker.lock with
  | .stopped => s
  | .acquire => s.withTracker (s.tracker.acquireUpdate m)
  | .locked => s.lockedUpdate m

/-- What a counted pulse at `t` does for the pitch (R3): in ACQUIRE and LOCKED the period since t_last is
measured, if there is one, and t_last is set; in STOPPED nothing is measured. -/
def State.measure (s : State) (t : Time) : State :=
  match s.tracker.lock with
  | .stopped => s
  | _ =>
    let s1 := match s.tracker.tLast with
      | none => s
      | some t0 => s.takePeriod (since t t0)
    s1.withTracker { s1.tracker with tLast := some t }

/-- The boundaries that a counted pulse reaches from an old position in pocket offset `k` (R18). -/
def Header.reachedByPulse (h : Header) (k oldPhase : Nat) : List Boundary :=
  if k + 1 = h.n then h.reachedBetween (k * 256 + oldPhase) (h.n * 256) ++ [.infeed]
  else h.reachedBetween (k * 256 + oldPhase) ((k + 1) * 256)

/-- A counted pulse (R3, R18): the pocket counter advances, the period is measured, the phase is set to
0, and the boundaries passed by the jump are handed on. -/
def State.countedPulse (s : State) (t : Time) : State :=
  let h := s.config.header
  let reachedNow :=
    if s.tracker.indexKnown then
      h.reachedByPulse (pocketOffset h.n s.own s.tracker.pocket) s.tracker.phase
    else []
  let s1 := s.withTracker
    { s.tracker with pocket := (s.tracker.pocket + 1) % h.n, lastPulse := some t, markTaken := false }
  let s2 := s1.measure t
  (s2.withTracker { s2.tracker with phase := 0 }).handBoundaries reachedNow

/-- An index mark (R4, R5). The correction leaves the phase as `enter` holds it. For a mark taken at exactly the
phase time of a boundary not yet handed over, R5 leaves the present phase open; that it is the held one, just
below the boundary, is the model's choice (log 31). -/
def State.indexMark (s : State) : State :=
  if s.tracker.indexKnown then
    let s1 := s.withTracker
      { s.tracker with markTaken := true, revolution := s.tracker.revolution + 1 }
    if s1.tracker.pocket = 0 then s1
    else
      let s2 := s1.countHead fun c => { c with indexMismatch := c.indexMismatch + 1 }
      let s3 := s2.abortIndex
      s3.withTracker { s3.tracker with pocket := 0 }
  else s.withTracker { s.tracker with indexKnown := true, markTaken := true, pocket := 0 }

/-- The pitch-loss deadline t_last + 4×E, kept in LOCKED (R11). -/
def Tracker.lossDeadline (tr : Tracker) : Option Time :=
  match tr.lock, tr.pitch, tr.tLast with
  | .locked, some e, some t0 => some (t0 + BitVec.ofNat 32 (4 * e))
  | _, _, _ => none

/-- A phase change (R17): the phase moves to its interpolated value and the boundaries it comes to are
handed on. -/
def State.phaseMoves (s : State) : State :=
  let new := s.tracker.phaseAt s.timeBase
  let k := pocketOffset s.config.header.n s.own s.tracker.pocket
  let due :=
    if s.tracker.indexKnown then
      s.config.header.reachedBetween (k * 256 + s.tracker.phase) (k * 256 + new)
    else []
  (s.withTracker { s.tracker with phase := new }).handBoundaries due

/-- A fall of the run line at the tracker (R13). -/
def Tracker.stop (tr : Tracker) : Tracker :=
  match tr.lock with
  | .stopped => tr
  | _ => { tr with lock := .stopped, tLast := none, inWindow := 0, miss := 0 }

/-- A rise of the run line at the tracker (R14). -/
def Tracker.rise (tr : Tracker) : Tracker :=
  match tr.lock with
  | .stopped => { tr with lock := .acquire, inWindow := 0, miss := 0 }
  | _ => tr

end Sys2Proof.Machine
end

