-- ==== Sys2Proof/Machine/StartOps.lean ====
section
/-! DEFINITION. The start sequence (R182 to R185), the power warning and the save (R186, R187). -/

namespace Sys2Proof.Machine

/-! ### Steps 1 to 5 -/

/-- Every reset puts the node in START with every block at its reset values and the time base at 0; the
configuration memory and the levels of the input lines stay as they are (R183). -/
def State.afterReset (s : State) (cause : ResetCause) : State :=
  { State.reset with
    pending := s.pending, pins := s.pins, memory := s.memory, node := { Node.reset with cause := cause } }

/-- Step 2: the straps are read, and an address of 30 or 31 makes the link OFF at once (R182). -/
def State.readStraps (s : State) (inp : StartInputs) : State :=
  let role := if inp.roleHigh then Role.check else Role.head
  let off := isController inp.addr
  let misplaced := role == .check && inp.addr != 24#5
  let s1 := s.withNode { s.node with role := role, address := inp.addr, strapsBad := off || misplaced }
  if off then s1.withLink { s1.link with state := .off } else s1

/-- The bytes the unit reads at start; a memory that does not answer reads as all ones (R173). -/
def State.configBytes (s : State) (inp : StartInputs) : List Byte :=
  if inp.memoryAnswers then Memory.slice s.memory 0 704 else List.replicate 704 0xFF#8

/-- Step 4: the memory is read once, the signature computed, the banks and the header checked (R173 to
R175); a head's address is tested once the header has passed (R182). -/
def State.readConfig (s : State) (inp : StartInputs) : State :=
  let bs := s.configBytes inp
  let header := readHeader (bs.take 64)
  let banks : PerBank Bank :=
    ⟨readBank ((bs.drop 64).take 96), readBank ((bs.drop 160).take 96),
     readBank ((bs.drop 256).take 96), readBank ((bs.drop 352).take 96)⟩
  let usable := banks.map fun b => b.usable header.pAmb
  let signature := configSignature bs
  let passes := headerPasses header signature usable
  let offTurret := passes && s.node.role == .head && decide (header.n ≤ s.node.address.toNat)
  (s.withConfig { s.config with
    header := header, banks := banks, usable := usable, signature := signature,
    persistent := readPersistent ((bs.drop 448).take 256) }).withNode
    { s.node with configBad := !passes, strapsBad := s.node.strapsBad || offTurret }

/-- The active bank handed to the sequencer (R19): the saved one if the marker is valid and it names a
usable bank, else the header's initial bank. -/
def State.handedBank (s : State) (clean : Bool) : BankId :=
  let saved := s.config.persistent.activeBank.toNat
  if clean && usableNumber s.config.usable saved then BitVec.ofNat 2 saved
  else BitVec.ofNat 2 s.config.header.initialBank

/-- Step 5: a node whose header and straps have passed examines its persistent area, takes up what a valid
marker vouches for and writes the marker invalid, or starts from the defaults with UNCLEAN (R184). -/
def State.takePersistent (s : State) : State :=
  if s.node.halts then s
  else
    let p := s.config.persistent
    let clean := p.marker == cleanMarker
    let s1 :=
      if s.node.role == .head then
        let trims := if clean then p.trims.map BitVec.toNat else PerBank.all 0
        (s.withSeq { s.seq with activeBank := s.handedBank clean }).withVerdicts
          { s.verdicts with trims := trims }
      else s
    if clean then
      (s1.withConfig { s1.config with
        lifetime := p.lifetime, persistent := { p with marker := 0 } }).withMemory
        (Memory.write s1.memory persistentBase 0)
    else s1.withNode { s1.node with unclean := true }

/-! ### Steps 6 to 8 -/

/-- The blocks of the role start (R183 step 8): R1, R19, R45, R68, R121 for a head, R135 and R156 for the
check node. -/
def State.startBlocks (s : State) : State :=
  match s.node.role with
  | .head =>
    let tr := if s.pins.run then s.tracker else s.tracker.stop
    ((s.withTracker tr).startSteam.startClosing).startVerdicts
  | .check => s.startTransit

/-- Steps 7 and 8: JOIN is offered and the node enters HALTED or OPERATING (R183, R185). -/
def State.joinAndEnter (s : State) : State :=
  let s1 := s.offer s.joinNotice
  if s1.node.halts then s1.withNode { s1.node with mode := .halted, awaitingCrystal := false }
  else (s1.withNode { s1.node with mode := .operating, awaitingCrystal := false }).startBlocks

/-- The crystal wait ends with the crystal ready: the time base switches to it and the link becomes ACTIVE
unless the straps have made it OFF (R183 step 6). -/
def State.crystalStarts (s : State) : State :=
  let s1 := s.withNode { s.node with onCrystal := true }
  (if s1.link.state == .off then s1 else s1.withLink { s1.link with state := .active }).joinAndEnter

/-- The crystal wait ends without the crystal: the link is OFF and the time base stays on the internal
oscillator (R183 step 6). -/
def State.crystalFails (s : State) : State :=
  (s.withLink { s.link with state := .off }).joinAndEnter

/-- The crystal wait of step 6, 50 ms on the time base (R183; counted from 0, log 6). -/
def crystalWaitUs : Time := 50000#32

/-- A reset with its cause runs the start sequence (R183). A power warning already asserted is taken at
step 1, and the node enters SAVED with nothing to write (R186). Steps 2 to 5 are made in this one command
(log 6); step 6 ends at once if the crystal is ready. -/
def State.startSequence (s : State) (cause : ResetCause) (inp : StartInputs) : State :=
  let changes := inp.memoryChanges.map fun c => (c.1.toNat, c.2)
  let s1 := s.afterReset cause
  let s2 := s1.withMemory (Memory.writeAll s1.memory changes)
  if s2.pins.pwarn then s2.withNode { s2.node with mode := .saved }
  else
    let s3 := ((s2.readStraps inp).readConfig inp).takePersistent
    if inp.crystalReady then s3.crystalStarts
    else s3.withNode { s3.node with awaitingCrystal := true }

/-- A reset that cuts short a save leaves the bytes already written (R187). -/
def State.cutSave (s : State) (cut : Nat) : State :=
  s.withMemory (Memory.writeAll s.memory (s.node.saving.take cut))

/-! ### The power warning -/

/-- The node enters SAVED and its save begins (R186). -/
def State.beginSave (s : State) : State :=
  s.withNode { s.node with
    mode := .saved, awaitingCrystal := false, saving := saveWrites s.savedImage }

/-- The node enters SAVED with nothing to write (R186). -/
def State.saveNothing (s : State) : State :=
  s.withNode { s.node with mode := .saved, awaitingCrystal := false, saving := [] }

/-- The head's blocks act on the warning (R42, R67, R88, R134): the open cycle is aborted and posted, the
cap gate is negated, the valve is driven shut. -/
def State.warnHead (s : State) : State :=
  let s1 := s.abortPower
  (s1.withSeq { s1.seq with capGate := false }).withSteam { s1.steam with commandOpen := false }

/-- The check node's blocks act on the warning (R154, R172): the reject output is negated at once. R172 says
nothing of the pulse end; that it becomes absent with the output is the model's choice (log 32). -/
def State.warnCheck (s : State) : State :=
  s.withReject { s.reject with output := false, pulseEnd := none }

/-- The start sequence has taken up a valid persistent area and written its marker invalid (R184). -/
def State.markerTaken (s : State) : Bool :=
  s.node.awaitingCrystal && !s.node.halts && !s.node.unclean

/-- The assertion of the power warning, by node state (R186). -/
def State.takeWarning (s : State) : State :=
  match s.node.mode with
  | .operating =>
    (match s.node.role with
      | .head => s.warnHead
      | .check => s.warnCheck).beginSave
  | .halted => s.saveNothing
  | .start => if s.markerTaken then s.beginSave else s.saveNothing
  | .saved => s

/-- The save's bytes are all written and the node's own copy follows (R186, section 10.2). -/
def State.finishSave (s : State) : State :=
  let s1 := s.withMemory (Memory.writeAll s.memory s.node.saving)
  (s1.withConfig { s1.config with persistent := s1.savedImage }).withNode { s1.node with saving := [] }

/-- A save is running. -/
def State.isSaving (s : State) : Bool := s.node.mode == .saved && !s.node.saving.isEmpty

end Sys2Proof.Machine
end

