-- ==== Sys2Proof/Machine/Power.lean ====
section
/-! DEFINITION. The meanings of the start and power commands (R182 to R187). -/

namespace Sys2Proof.Machine

/-- POWER_ON_RESET (R183, R187): a running save is cut short, the lines show their levels as power comes
on, and the start sequence runs with cause POWER. -/
def execPowerOnReset (start : StartInputs) (cut : Nat) (levels : LineLevels) (s : State) :
    Host.Outcome State Fault Refusal :=
  let s1 := s.cutSave cut
  let s2 := s1.withPins
    { s1.pins with pwarn := levels.pwarn, run := levels.run, valveOpen := levels.valveOpen }
  .next (s2.startSequence .power start)

/-- RESET_LINE (R183, R187): the node is reset at once in every state, with cause PIN. -/
def execResetLine (start : StartInputs) (cut : Nat) (s : State) : Host.Outcome State Fault Refusal :=
  .next ((s.cutSave cut).startSequence .pin start)

/-- The node is in step 6 of the start sequence, waiting for the crystal (R183). -/
def State.inCrystalWait (s : State) : Bool := s.node.mode == .start && s.node.awaitingCrystal

/-- CRYSTAL_READY (R183 steps 6 to 8); outside the wait it changes nothing, even if it comes later. -/
def execCrystalReady (t : Time) (s : State) : Host.Outcome State Fault Refusal :=
  let s := s.enter t
  .next (if s.inCrystalWait then s.crystalStarts else s)

/-- CRYSTAL_WAIT_EXPIRY (R183 steps 6 to 8), once the wait of 50 ms is over. -/
def execCrystalWaitExpiry (t : Time) (s : State) : Host.Outcome State Fault Refusal :=
  let s := s.enter t
  .next (if s.inCrystalWait && reached s.timeBase crystalWaitUs then s.crystalFails else s)

/-- A change of the power-warning line from negated to asserted (R186). -/
def State.takeAssertion (s : State) : State :=
  if s.pins.pwarn then s else (s.withPins { s.pins with pwarn := true }).takeWarning

/-- POWER_WARNING_ASSERTED (R186). -/
def execPowerWarningAsserted (m : Moment) (s : State) : Host.Outcome State Fault Refusal :=
  .next ((s.enter m.time).afterSample m.ahead State.takeAssertion)

/-- SAVE_COMPLETE (R186, R187): the save has run to its end, and the node restarts if the line is negated
at that moment. -/
def execSaveComplete (t : Time) (start : StartInputs) (s : State) : Host.Outcome State Fault Refusal :=
  let s := s.enter t
  .next
    (if s.isSaving then
      let s1 := s.finishSave
      if s1.pins.pwarn then s1 else s1.startSequence .warnRecovery start
    else s)

/-- POWER_WARNING_NEGATED (R187): a node in SAVED with nothing left to write restarts at once; a running
save runs on. -/
def execPowerWarningNegated (t : Time) (start : StartInputs) (s : State) :
    Host.Outcome State Fault Refusal :=
  let s := s.enter t
  .next
    (if s.pins.pwarn then
      let s1 := s.withPins { s.pins with pwarn := false }
      if s1.node.mode == .saved && !s1.isSaving then s1.startSequence .warnRecovery start else s1
    else s)

end Sys2Proof.Machine
end

