-- ==== Sys2Proof/Machine/SteamUnit.lean ====
section
/-! DEFINITION. The meanings of the steam unit's own commands (R46 to R50, R61, R65). -/

namespace Sys2Proof.Machine

/-- VALVE_FEEDBACK_CHANGE (R46 to R50): the position switch comes to show a level; showing the level it
showed already is no change. -/
def execValveFeedbackChange (t : Time) (shownOpen : Bool) (s : State) :
    Host.Outcome State Fault Refusal :=
  let s := s.enter t
  .next
    (if s.pins.valveOpen == shownOpen then s
    else
      let s1 := s.withPins { s.pins with valveOpen := shownOpen }
      if s1.headRuns then s1.feedbackChanged else s1)

/-- The settle timer has run for s_v (R46). -/
def State.settleDue (s : State) : Bool :=
  match s.steam.settle with
  | some start => reached s.timeBase (start + msTime s.config.header.settleMs)
  | none => false

/-- SETTLE_TIMER_EXPIRY (R46). -/
def execSettleTimerExpiry (t : Time) (s : State) : Host.Outcome State Fault Refusal :=
  let s := s.enter t
  .next (if s.headRuns && s.settleDue then s.settleExpired else s)

/-- DOSE_TICK (R63 to R65): a tick that is due. -/
def execDoseTick (t : Time) (s : State) : Host.Outcome State Fault Refusal :=
  let s := s.enter t
  .next
    (if s.headRuns then
      match s.steam.ticks with
      | some due => if reached s.timeBase due then s.takeTick due else s
      | none => s
    else s)

/-- An entry of the roster has come to its expiry time (R61). -/
def State.rosterDue (s : State) (peer : Nat) : Bool :=
  s.steam.roster.any fun e =>
    e.peer == peer && match e.state with
      | .opened expiry => reached s.timeBase expiry
      | _ => false

/-- ROSTER_EXPIRY (R61): the entry becomes CLOSED and is counted stale. -/
def execRosterExpiry (t : Time) (peer : Address) (s : State) : Host.Outcome State Fault Refusal :=
  let s := s.enter t
  .next
    (if s.headRuns && s.rosterDue peer.toNat then
      (s.setRoster peer.toNat .closed).countHead fun c => { c with rosterStale := c.rosterStale + 1 }
    else s)

end Sys2Proof.Machine
end

