-- ==== Sys2Proof/Machine/Turret.lean ====
section
/-! DEFINITION. The meanings of the turret and run-line commands (Chapters 1 and 2). -/

namespace Sys2Proof.Machine

/-- A turret pulse at `t` (R2 to R5), with the jar-present and cap-present levels of that moment. -/
def State.takePulse (s : State) (t : Time) (jar cap : Bool) : State :=
  let s := s.withPins { s.pins with jarPresent := jar, capPresent := cap }
  if s.headRuns then
    match s.tracker.classify t with
    | .indexMark => s.indexMark
    | .extraClose => s.countHead fun c => { c with extraMark := c.extraMark + 1 }
    | .counted => s.countedPulse t
  else s

/-- TURRET_PULSE (R2 to R5). -/
def execTurretPulse (m : Moment) (jar cap : Bool) (s : State) : Host.Outcome State Fault Refusal :=
  .next ((s.enter m.time).afterSample m.ahead fun s => s.takePulse m.time jar cap)

/-- A pitch loss once the time base has reached the pitch-loss deadline (R11, R12). -/
def State.takeLossDeadline (s : State) : State :=
  if s.headRuns then
    match s.tracker.lossDeadline with
    | some d => if reached s.timeBase d then s.pitchLoss else s
    | none => s
  else s

/-- PITCH_LOSS_DEADLINE (R11, R12). -/
def execPitchLossDeadline (m : Moment) (s : State) : Host.Outcome State Fault Refusal :=
  .next ((s.enter m.time).afterSample m.ahead State.takeLossDeadline)

/-- A phase change (R17), with the cap-present level of that moment. -/
def State.takePhase (s : State) (cap : Bool) : State :=
  let s := s.withPins { s.pins with capPresent := cap }
  if s.headRuns then s.phaseMoves else s

/-- PHASE_BOUNDARY (R17). -/
def execPhaseBoundary (m : Moment) (cap : Bool) (s : State) : Host.Outcome State Fault Refusal :=
  .next ((s.enter m.time).afterSample m.ahead fun s => s.takePhase cap)

/-- A fall of the run line (R13, R40); the phase stays where it stands (log 29). -/
def State.takeRunFall (s : State) : State :=
  let s := s.withPins { s.pins with run := false }
  if s.headRuns then (s.withTracker s.tracker.stop).abortWorking .runOff else s

/-- RUN_LINE_FALL (R13, R40). A fall taken first at the moment of a boundary's phase time freezes the phase
just below that boundary: a PHASE_BOUNDARY taken after it at the same moment hands nothing, and the boundary
waits for the next counted pulse (DESIGN CHOICE, log 29). -/
def execRunLineFall (m : Moment) (s : State) : Host.Outcome State Fault Refusal :=
  .next ((s.enter m.time).afterSample m.ahead State.takeRunFall)

/-- RUN_LINE_RISE (R14); the sequencer takes no effect from it (R40). -/
def execRunLineRise (t : Time) (s : State) : Host.Outcome State Fault Refusal :=
  let s := s.enter t
  let s := s.withPins { s.pins with run := true }
  .next (if s.headRuns then s.withTracker s.tracker.rise else s)

/-- TEMPERATURE_READING (R28): a reading replaces the last one, with its status. -/
def execTemperatureReading (t : Time) (reading : SensorReading) (s : State) :
    Host.Outcome State Fault Refusal :=
  let s := s.enter t
  .next (if s.headRuns then s.withSeq { s.seq with lastTemp := some reading } else s)

end Sys2Proof.Machine
end

