-- ==== Sys2Proof/Machine/Dispatch.lean ====
section
/-! DEFINITION. The meaning of each command: one arm per constructor of Instr. -/

namespace Sys2Proof.Machine

def exec (i : Instr) (s : State) : Host.Outcome State Fault Refusal :=
  match i with
  | .powerOnReset st c l => Sys2Proof.Machine.execPowerOnReset st c l s
  | .resetLine st c => Sys2Proof.Machine.execResetLine st c s
  | .crystalReady t => Sys2Proof.Machine.execCrystalReady t s
  | .crystalWaitExpiry t => Sys2Proof.Machine.execCrystalWaitExpiry t s
  | .powerWarningAsserted m => Sys2Proof.Machine.execPowerWarningAsserted m s
  | .saveComplete t st => Sys2Proof.Machine.execSaveComplete t st s
  | .powerWarningNegated t st => Sys2Proof.Machine.execPowerWarningNegated t st s
  | .turretPulse m j c => Sys2Proof.Machine.execTurretPulse m j c s
  | .pitchLossDeadline m => Sys2Proof.Machine.execPitchLossDeadline m s
  | .phaseBoundary m c => Sys2Proof.Machine.execPhaseBoundary m c s
  | .runLineFall m => Sys2Proof.Machine.execRunLineFall m s
  | .runLineRise t => Sys2Proof.Machine.execRunLineRise t s
  | .temperatureReading t r => Sys2Proof.Machine.execTemperatureReading t r s
  | .valveFeedbackChange t o => Sys2Proof.Machine.execValveFeedbackChange t o s
  | .settleTimerExpiry t => Sys2Proof.Machine.execSettleTimerExpiry t s
  | .doseTick t => Sys2Proof.Machine.execDoseTick t s
  | .rosterExpiry t p => Sys2Proof.Machine.execRosterExpiry t p s
  | .driveSample t x => Sys2Proof.Machine.execDriveSample t x s
  | .sampleDeadline t => Sys2Proof.Machine.execSampleDeadline t s
  | .frameStart t => Sys2Proof.Machine.execFrameStart t s
  | .contestLost t => Sys2Proof.Machine.execContestLost t s
  | .transmitError t b => Sys2Proof.Machine.execTransmitError t b s
  | .frameSent t => Sys2Proof.Machine.execFrameSent t s
  | .rxFrameError t b => Sys2Proof.Machine.execRxFrameError t b s
  | .duplicateAddress t => Sys2Proof.Machine.execDuplicateAddress t s
  | .steamOpenReceived t a => Sys2Proof.Machine.execSteamOpenReceived t a s
  | .steamShutReceived t a => Sys2Proof.Machine.execSteamShutReceived t a s
  | .valveFaultReceived t a f => Sys2Proof.Machine.execValveFaultReceived t a f s
  | .joinReceived t a p => Sys2Proof.Machine.execJoinReceived t a p s
  | .verdictReceived t a p => Sys2Proof.Machine.execVerdictReceived t a p s
  | .sealReceived t a p => Sys2Proof.Machine.execSealReceived t a p s
  | .voidReceived t a p => Sys2Proof.Machine.execVoidReceived t a p s
  | .conveyorAdvance t b => Sys2Proof.Machine.execConveyorAdvance t b s
  | .transitWindowClose t => Sys2Proof.Machine.execTransitWindowClose t s
  | .jarEdge t => Sys2Proof.Machine.execJarEdge t s
  | .panelReading t r => Sys2Proof.Machine.execPanelReading t r s
  | .readingWindowClose t => Sys2Proof.Machine.execReadingWindowClose t s
  | .gatePositionReached t => Sys2Proof.Machine.execGatePositionReached t s
  | .rejectPulseEnd t => Sys2Proof.Machine.execRejectPulseEnd t s
  | .selectBank t a k g => Sys2Proof.Machine.execSelectBank t a k g s
  | .lock t a k g => Sys2Proof.Machine.execLock t a k g s
  | .restore t a k g => Sys2Proof.Machine.execRestore t a k g s
  | .trimReset t a k g => Sys2Proof.Machine.execTrimReset t a k g s
  | .clearCounts t a k g => Sys2Proof.Machine.execClearCounts t a k g s
  | .report t a k g => Sys2Proof.Machine.execReport t a k g s
  | .releaseStop t a k g => Sys2Proof.Machine.execReleaseStop t a k g s
  | .commandOpUnknown t a k o g => Sys2Proof.Machine.execCommandOpUnknown t a k o g s

end Sys2Proof.Machine
end

