-- ==== Sys2Proof/Machine/Received.lean ====
section
/-! DEFINITION. What a receiver makes of a valid frame: the fields of its payload (section 6.7, R120) and the
row of the opcode table that the frame raises in this node (R111 to R113). -/

namespace Sys2Proof.Machine

/-! ### The fields of a payload -/

/-- The 16-bit payload field at an offset, most significant byte first (section 6.7). -/
def payloadHalf (p : List Byte) (i : Nat) : Half := BitVec.ofNat 16 (halfField p i)

/-- The fields of a SEAL (section 6.7): of byte 2, bits 7..6 are the bank, bits 3..0 the cap verdict, and the
spare bits 5..4 are ignored (R120). -/
def readSeal (p : List Byte) : SealPayload :=
  { revolution := payloadHalf p 0, bank := BitVec.ofNat 2 (byteField p 2 / 64),
    capVerdict := BitVec.ofNat 4 (byteField p 2), flags := p.getD 3 0, detail := p.getD 4 0,
    securityAngle := payloadHalf p 5, peakTorque := payloadHalf p 7, dose := payloadHalf p 9,
    temperature := payloadHalf p 11, vPred := payloadHalf p 13, signature := payloadHalf p 15 }

/-- The fields of a VOID (section 6.7). -/
def readVoid (p : List Byte) : VoidPayload := { revolution := payloadHalf p 0, reason := p.getD 2 0 }

/-- The fields of a VERDICT (section 6.7). -/
def readVerdict (p : List Byte) : VerdictPayload :=
  { head := p.getD 0 0, revolution := payloadHalf p 1, code := p.getD 3 0, flags := p.getD 4 0,
    vMeas := payloadHalf p 5 }

/-- The fields of a JOIN (section 6.7). -/
def readJoin (p : List Byte) : JoinPayload :=
  { role := p.getD 0 0, cause := p.getD 1 0, signature := payloadHalf p 2, activeBank := p.getD 4 0,
    flags := p.getD 5 0 }

/-! ### COMMAND notices -/

/-- The kind code of a COMMAND, which only line controllers send (section 6.7). -/
def commandKind : Nat := 4

/-- The six payload bytes of a COMMAND (section 6.7): byte 0 the op, bytes 1 to 4 the target mask, most
significant first, byte 5 the argument. -/
def commandPayload (op : Byte) (mask : BitVec 32) (arg : Byte) : List Byte :=
  [op] ++ bytesOfCount mask ++ [arg]

/-- The row that a COMMAND raises by its op byte; every op outside 1..7 raises the one of unknown ops
(section 6.7, R177). -/
def commandRow (t : Time) (sender : Address) (op : Byte) (mask : BitVec 32) (arg : Byte) : Instr :=
  match op.toNat with
  | 1 => .selectBank t sender mask arg
  | 2 => .lock t sender mask arg
  | 3 => .restore t sender mask arg
  | 4 => .trimReset t sender mask arg
  | 5 => .clearCounts t sender mask arg
  | 6 => .report t sender mask arg
  | 7 => .releaseStop t sender mask arg
  | _ => .commandOpUnknown t sender mask op arg

/-! ### The row that a frame raises -/

/-- The row by which a delivered notice reaches the blocks, its payload read into fields as received (R112,
R120). STATE and REPORT are delivered to no block. -/
def noticeRow (t : Time) (kind : Nat) (sender : Address) (p : List Byte) : Option Instr :=
  match kind with
  | 1 => some (.steamOpenReceived t sender)
  | 2 => some (.steamShutReceived t sender)
  | 3 => some (.valveFaultReceived t sender (p.getD 0 0))
  | 4 => some (commandRow t sender (p.getD 0 0) (countField p 1) (p.getD 5 0))
  | 5 => some (.sealReceived t sender (readSeal p))
  | 6 => some (.voidReceived t sender (readVoid p))
  | 7 => some (.verdictReceived t sender (readVerdict p))
  | 9 => some (.joinReceived t sender (readJoin p))
  | _ => none

/-- The row that a frame raises at the end of its bits in the node with address `own`: discarded (R111), a
duplicate address whatever its kind (R113), or delivered (R112). -/
def frameRow (t : Time) (own : Address) (bits : List Bool) : Option Instr :=
  match readFrame bits with
  | .bad _ => some (.rxFrameError t bits)
  | .valid kind sender p =>
    if sender == own then some (.duplicateAddress t) else noticeRow t kind sender p

end Sys2Proof.Machine
end

