-- ==== Sys2Proof/Safety.lean ====
section
/-! DEFINITION. What the statements say of a state: the laws the chapters give for every state a node
passes through, and the shapes the statements share. -/

namespace Sys2Proof.Machine

/-! ### Commands -/

/-- The start and power commands, the only ones that touch the node's own part of the state. -/
def startsOrSaves : Instr → Bool
  | .powerOnReset _ _ _ | .resetLine _ _ | .crystalReady _ | .crystalWaitExpiry _
  | .powerWarningAsserted _ | .saveComplete _ _ | .powerWarningNegated _ _ => true
  | _ => false

/-! ### Laws kept by every step -/

/-- The configuration memory is canonical, and a running save writes only bytes that it has (10.1, R186). -/
def State.memoryOk (s : State) : Prop :=
  Memory.wf s.memory ∧ ∀ w ∈ s.node.saving, w.1 < Config.memoryBytes

/-- The transmit queue as R116 and R118 leave it: at most eight entries in order of kind, at most one in
flight, a STEAM-OPEN beside no STEAM-SHUT but one in flight that it is remembered to have overtaken; and empty
unless the link is ACTIVE (R104, R114, R115). -/
structure Link.ok (l : Link) : Prop where
  bounded : l.queue.length ≤ 8
  sorted : l.queue.Pairwise fun a b => a.notice.kind ≤ b.notice.kind
  single : (l.queue.filter (·.inFlight)).length ≤ 1
  cancelled : (∃ e ∈ l.queue, e.notice = .steamOpen) →
    ∀ e ∈ l.queue, e.notice = .steamShut → e.inFlight = true ∧ l.shutOvertaken = true
  quiet : l.state ≠ .active → l.queue = []

/-- The link obeys the law of its queue, and no link is ACTIVE in START (R104). -/
def State.linkOk (s : State) : Prop :=
  s.link.ok ∧ (s.node.mode = .start → s.link.state ≠ .active)

/-- The command in force that each closing state has (R72), under the closing's own limits. -/
def Closing.commandOk (c : Closing) : Prop :=
  match c.phase with
  | .free => c.command = .freewheel
  | .parked => c.command = .stop
  | .dwell => ∃ l, c.limits = some l ∧ c.command = .hold l.tFinal
  | .seek | .tighten => ∃ l, c.limits = some l ∧ c.command = .spin l.spinSpeed

/-- The cycle is at work: FLUSHING or CLOSING. -/
def CycleState.steams (c : CycleState) : Prop := c = .flushing ∨ c.isClosing = true

/-- The law of the valve (R31, R53, R54, R58) and of the dose (R59, R63), for a steam unit, the cycle state
beside it and Qn. T stands as `max 1 t`: it is at least 1 in every run (R29), and the law is stated for
every state. -/
structure Steam.ok (st : Steam) (cycle : CycleState) (qn : Nat) : Prop where
  /-- The valve is commanded open only in OPENING and OPEN. -/
  commanded : st.commandOpen = true → st.valve = .opening ∨ st.valve = .opened
  /-- OPENING and OPEN belong to an open flush. -/
  flushing : st.valve = .opening ∨ st.valve = .opened → st.flush = .opened
  /-- A flush is open only while its cycle is FLUSHING or CLOSING (R31). -/
  cycling : st.flush = .opened → cycle.steams
  /-- A cycle is attached only until its record is posted (R58). -/
  attachment : st.attached = true → cycle.steams ∨ cycle = .ended
  /-- Nothing has been counted before the valve is OPEN (R53, R63). -/
  uncounted : st.valve = .opening → st.dose = 0 ∧ ∃ t, st.target = some t
  /-- The ticks run only in OPEN and FAULT_OPEN, for a cycle not yet posted (R58, R63). -/
  ticking : st.ticks ≠ none →
    (st.valve = .opened ∨ st.valve = .faultOpen) ∧ (cycle.steams ∨ cycle = .ended)
  /-- Every tick is taken with D below T (R59). -/
  below : st.ticks ≠ none → ∃ t, st.target = some t ∧ st.dose < max 1 t
  /-- D is less than T plus Qn (R59). -/
  bounded : ∀ t, st.target = some t → st.dose < max 1 t + max 1 qn

/-- The steam unit obeys its law, and a head that takes no events has its valve commanded shut (R45,
R67). -/
def State.steamOk (s : State) : Prop :=
  s.steam.ok s.seq.cycle s.config.header.qn ∧ (s.headRuns = false → s.steam.commandOpen = false)

/-- The pitch estimate, once known, stays in 50,000..4,000,000 µs (R7). -/
def Tracker.pitchOk (tr : Tracker) : Prop := ∀ e, tr.pitch = some e → 50000 ≤ e ∧ e ≤ 4000000

/-- The verdict list holds at most 32 entries, no two of one revolution (R123). -/
def VerdictList.ok (v : VerdictList) : Prop :=
  v.awaited.length ≤ 32 ∧ (v.awaited.map (·.revolution)).Nodup

/-- Every good-run count is below eight, and while the list takes events every trim is at most its bank's
trim max (R122, R129). -/
def State.trimsOk (s : State) : Prop :=
  (∀ b, s.verdicts.goodRun.get b < 8) ∧
  (s.headRuns = true → ∀ b, s.verdicts.trims.get b ≤ (s.bankOf b).trimMax)

/-- The transit list, the reject queue and the counts that hold keep to their sizes (R144, R163, R165,
R166). -/
structure State.stationOk (s : State) : Prop where
  transit : s.transit.entries.length ≤ 512
  rejects : s.reject.queue.length ≤ 32
  consecutive : s.reject.consecutive ≤ 255
  noReading : s.reject.noReading ≤ 255

/-! ### What a statement says of a start sequence -/

/-- The configuration memory once the changes made from outside have been taken up (log 6). -/
def startMemory (m : Memory) (inp : StartInputs) : Memory :=
  Memory.writeAll m (inp.memoryChanges.map fun c => (c.1.toNat, c.2))

/-- The bytes 0..703 that the unit reads at start (R173): all ones from a memory that does not answer. -/
def startBytes (m : Memory) (inp : StartInputs) : List Byte :=
  if inp.memoryAnswers then Memory.slice (startMemory m inp) 0 704 else List.replicate 704 0xFF#8

/-- What `u` is once steps 1 to 5 of the start sequence have run from memory `m`, with the crystal not
ready yet (R183, R184): the node waits in START, every block holds its reset values, the straps and the
memory have been read and checked. The sample deadline 0 among those values is the model's choice (log 7). -/
structure State.Started (u : State) (m : Memory) (cause : ResetCause) (inp : StartInputs) : Prop where
  time : u.timeBase = 0
  waiting : u.node.mode = .start ∧ u.node.awaitingCrystal = true ∧ u.node.onCrystal = false
  node : u.node.cause = cause ∧ u.node.saving = [] ∧
    u.node.role = (if inp.roleHigh then .check else .head) ∧ u.node.address = inp.addr
  blocks : u.counters = Counters.zero ∧ u.tracker = Tracker.reset ∧ u.steam = Steam.reset ∧
    u.closing = Closing.reset ∧ u.transit = Transit.reset ∧ u.reject = RejectUnit.reset
  sequencer : u.seq = { Sequencer.reset with activeBank := u.seq.activeBank }
  verdicts : u.verdicts = { VerdictList.reset with trims := u.verdicts.trims }
  link : u.link = { Link.reset with state := if isController inp.addr then .off else .starting }
  header : u.config.header = readHeader ((startBytes m inp).take 64)
  banks : ∀ b : BankId, u.config.banks.get b =
    readBank (((startBytes m inp).drop (64 + 96 * b.toNat)).take 96)
  usable : ∀ b : BankId, u.config.usable.get b = (u.config.banks.get b).usable u.config.header.pAmb
  signature : u.config.signature = configSignature (startBytes m inp)
  report : u.config.reportOutstanding = false ∧ u.config.snapshot = none ∧ u.config.pagesInQueue = 0
  configBad : u.node.configBad = !headerPasses u.config.header u.config.signature u.config.usable
  strapsBad : u.node.strapsBad =
    (isController inp.addr || (inp.roleHigh && inp.addr != 24#5)
      || (!u.node.configBad && !inp.roleHigh && decide (u.config.header.n ≤ inp.addr.toNat)))

/-- The persistent area as the start sequence reads it (R173). -/
def startPersistent (m : Memory) (inp : StartInputs) : Persistent :=
  readPersistent (((startBytes m inp).drop 448).take 256)

/-- The head `s` with its blocks started at `t` (R1, R45, R68, R121): a tracker whose run line is low is
STOPPED, the roster is CLOSED, FREEWHEEL is sent, and the trims are held to trim max. -/
def State.headBlocks (s : State) (t : Time) : State :=
  let held := fun b : BankId =>
    if s.config.usable.get b then min (s.verdicts.trims.get b) (s.config.banks.get b).trimMax else 0
  { s with
    timeBase := t
    tracker := if s.pins.run || s.tracker.lock == .stopped then s.tracker
      else { s.tracker with lock := .stopped, tLast := none, inWindow := 0, miss := 0 }
    steam := { s.steam with
      roster := ((List.range s.config.header.n).filter fun a => a != s.own).map fun a => ⟨a, .closed⟩
      settle := if s.steam.commandOpen != s.pins.valveOpen then some (s.steam.settle.getD t) else none }
    closing := { s.closing with command := .freewheel, sent := [.freewheel], deadline := t + 600#32 }
    verdicts := { s.verdicts with trims := ⟨held 0, held 1, held 2, held 3⟩ } }

/-- The check node `s` with its blocks started at `t` (R135, R156). -/
def State.checkBlocks (s : State) (t : Time) : State :=
  { s with
    timeBase := t
    closing := { s.closing with sent := [] }
    transit := { s.transit with lastRev := List.replicate s.config.header.n none } }

/-! ### What a statement says of a sample event ahead of a command -/

/-- The node once the closing unit has taken the sample event that stands ahead of a command at `t`, its
report still on the way to the sequencer (R85 to R87, log 12). -/
def State.sampledAt (s : State) (t : Time) (ahead : Option SampleEvent) : State :=
  match ahead with
  | none => s.enter t
  | some e => ((s.enter t).unitTakes e).1

/-! ### What a statement says of a pulse and of an abort -/

/-- A turret pulse at `t` finds the node: the state of R15 at `t`, with the sensor levels of that moment. -/
def State.atPulse (s : State) (t : Time) (jar cap : Bool) : State :=
  { s.enter t with pins := { s.pins with jarPresent := jar, capPresent := cap } }

/-- The pulse at `t` follows its pitch pulse within 4,000 µs (R2). -/
def State.closePulseAt (s : State) (t : Time) : Prop :=
  ∃ l, s.tracker.lastPulse = some l ∧ 0 ≤ since t l ∧ since t l < 4000

/-- A period within a quarter of a known pitch estimate, and within 50,000..4,000,000 µs (R7). -/
abbrev inWindowOf (e : Nat) (m : Int) : Prop :=
  50000 ≤ m ∧ m ≤ 4000000 ∧ (e : Int) - (e / 4 : Nat) ≤ m ∧ m ≤ (e : Int) + (e / 4 : Nat)

/-- The period that a counted pulse at `t` measures is the third miss in a row (R10). -/
def State.pulseLoses (s : State) (t : Time) : Bool :=
  match s.tracker.lock, s.tracker.tLast with
  | .locked, some t0 =>
    decide (2 ≤ s.tracker.miss ∧ ¬ inWindowOf (s.tracker.pitch.getD 0) (since t t0))
  | _, _ => false

/-- The node once a counted pulse at `t` has been measured, its tracker being `tr` after the pulse, before any
abort and any boundary: a pitch loss has been counted (R3, R12). -/
def State.atCounted (s : State) (t : Time) (jar cap : Bool) (tr : Tracker) : State :=
  { s.atPulse t jar cap with
    tracker := tr
    counters := if s.pulseLoses t then { s.counters with
        head := { s.counters.head with pitchLoss := s.counters.head.pitchLoss + 1 } }
      else s.counters }

/-- The boundaries that the jump of a counted pulse at `t` reaches, in their order (R16, R18). -/
def State.pulseBoundaries (s : State) (t : Time) : List Boundary :=
  let n := s.config.header.n
  let k := pocketOffset n s.own s.tracker.pocket
  if s.tracker.indexKnown = false then []
  else s.config.header.reachedBetween (k * 256 + (s.enter t).tracker.phase) ((k + 1) * 256) ++
    if k + 1 = n then [.infeed] else []

/-- A record at the end of its flush: cause, and the result of R56 for the dose `d` and the target `t`. -/
def Record.endFlush (r : Record) (cause : FlushEnd) (t d : Nat) : Record :=
  { r with flushEnd := cause, steamResult := if t ≤ d then .full else .underflush }

/-- What a shut request has done to the steam unit and the link of `s` (R54, R58): with no flush open
nothing; else the flush has ended with the valve commanded shut, and a valve in OPEN has sent STEAM-SHUT. A
valve in OPENING whose feedback shows open is left to log 13. -/
structure State.FlushShut (u s : State) : Prop where
  unopened : s.steam.flush ≠ .opened → u.steam = s.steam ∧ u.link = s.link
  ended : s.steam.flush = .opened → u.steam.flush = .ended ∧ u.steam.commandOpen = false
  valveOpen : s.steam.flush = .opened → s.steam.valve = .opened →
    let st := { s.steam with flush := .ended, commandOpen := false, ticks := none }
    u.link = (s.offer .steamShut).link ∧
    u.steam = if s.pins.valveOpen then { st with valve := .shutting, settle := some s.timeBase }
      else { st with valve := .shut, settle := none, attached := false }
  valveOpening : s.steam.flush = .opened → s.steam.valve = .opening → s.pins.valveOpen = false →
    u.link = s.link ∧
    u.steam = { s.steam with
      flush := .ended, commandOpen := false, valve := .shut, settle := none, attached := false }
  otherwise : s.steam.flush = .opened → s.steam.valve ≠ .opened → s.steam.valve ≠ .opening →
    u.link = s.link ∧ u.steam = { s.steam with flush := .ended, commandOpen := false }

/-- `u` is `s` after an abort of its open cycle (R39), but for the tracker. -/
structure State.Aborted (u s : State) (cause : AbortCause) : Prop where
  sequencer : u.seq = { s.seq with
    cycle := .ended
    capGate := if s.seq.cycle = .loading then false else s.seq.capGate
    record := s.seq.record.map fun r =>
      let r := if s.steam.flush = .opened then
        r.endFlush .abort (s.steam.target.getD 0) s.steam.dose else r
      if r.jarPresent = true ∧ r.capVerdict ≠ some .aborted then
        { r with capVerdict := some .aborted, abortCause := some cause } else r }
  spindle : u.closing =
    if s.seq.reachedClosing = true ∧ s.closing.phase.running = true then
      { s.closing with command := .stop, phase := .parked, sent := s.closing.sent ++ [.stop] }
    else s.closing
  flush : u.FlushShut s
  counts : u.counters.head = { s.counters.head with
      cycleAborts := s.counters.head.cycleAborts + 1
      underflushes := if s.steam.flush = .opened ∧ s.steam.dose < s.steam.target.getD 0 then
        s.counters.head.underflushes + 1 else s.counters.head.underflushes } ∧
    u.config.lifetime = { s.config.lifetime with four := s.config.lifetime.four + 1 }
  rest : u.verdicts = s.verdicts ∧ u.pins = s.pins ∧ u.node = s.node ∧ u.memory = s.memory ∧
    u.transit = s.transit ∧ u.reject = s.reject

/-! ### What a statement says of boundaries and of a posting -/

/-- The phase comes, in one change at `t`, to exactly the boundaries `bs` (R15, R17). -/
def State.phaseReaches (s : State) (t : Time) (bs : List Boundary) : Prop :=
  s.headRuns = true ∧ s.tracker.indexKnown = true ∧
    let base := pocketOffset s.config.header.n s.own s.tracker.pocket * 256
    let tr := (s.enter t).tracker
    s.config.header.reachedBetween (base + tr.phase) (base + tr.phaseAt t) = bs

/-- The node with its phase moved on at `t`, before a boundary is handed over. -/
def State.atPhase (s : State) (t : Time) (cap : Bool) : State :=
  { s.enter t with
    pins := { s.pins with capPresent := cap }
    tracker := { (s.enter t).tracker with phase := (s.enter t).tracker.phaseAt t } }

/-- The same with a sample event taken ahead of the phase change. -/
def State.sampledPhase (s : State) (t : Time) (cap : Bool) (ahead : Option SampleEvent) : State :=
  { s.sampledAt t ahead with
    pins := { s.pins with capPresent := cap }, tracker := (s.atPhase t cap).tracker }

/-- A counted pulse at `t` brings the pocket counter to the head's own pocket and passes no boundary
before it: INFEED alone is reached (R16, R18). -/
def State.infeedAlone (s : State) (t : Time) : Prop :=
  s.headRuns = true ∧ ¬ s.closePulseAt t ∧ s.tracker.indexKnown = true ∧
    let k := pocketOffset s.config.header.n s.own s.tracker.pocket
    k + 1 = s.config.header.n ∧
    s.config.header.reachedBetween (k * 256 + (s.enter t).tracker.phase) (s.config.header.n * 256) = []

/-- The record that R23 opens. -/
def Record.opened (revolution : Half) (bank : BankId) (jar : Bool) : Record :=
  { revolution := revolution, bank := bank, jarPresent := jar, voidReason := .noJar,
    temperature := none, tempSource := none, tempClamped := false, trimSnapshot := none,
    target := none, dose := 0, flushEnd := .none, steamResult := .none, valveFault := false,
    securityAngle := none, peakTorque := 0, feedbackHeld := false, capVerdict := none,
    abortCause := none, vPred := none }

/-- `u` is the idle node `s` after an INFEED with the run line high (R21 to R25, R51): the pending bank and then
the pending lock action are taken up, a record is opened, and the first prevent-start check that applies ends
the cycle; with none it is LOADING. Every notice is offered in that order. -/
structure State.TookUp (u s : State) : Prop where
  taken :
    let bank := s.seq.pendingBank.getD s.seq.activeBank
    let restores := s.seq.pendingLock = .restore
    let clears := restores ∧ s.steam.valve = .faultShut
    let commanded := if s.seq.pendingLock = .lock then true
      else if restores then false else s.seq.commandedLock
    let self := if restores ∧ s.steam.valve ≠ .faultOpen then false else s.seq.selfLock
    let valve := if clears then .shut else s.steam.valve
    let locked := commanded = true ∨ self = true
    let faulted := valve = .faultOpen ∨ valve = .faultShut
    let synced := s.tracker.lock = .locked ∧ s.tracker.indexKnown = true
    let locks := ¬ locked ∧ s.pins.jarPresent = true ∧ synced ∧ faulted
    let q := { s.seq with
      activeBank := bank, pendingBank := none, pendingLock := .none, lastTemp := none
      commandedLock := commanded, selfLock := self, reachedClosing := false }
    let r := Record.opened s.tracker.revolution bank s.pins.jarPresent
    let ends (r : Record) := { q with cycle := .ended, record := some r }
    u.seq =
      (if locked then
        ends (if s.pins.jarPresent then { r with capVerdict := some .heldOut }
          else { r with voidReason := .lockedEmpty })
      else if s.pins.jarPresent = false then ends r
      else if ¬ synced then ends { r with capVerdict := some .unsynced }
      else if faulted then { ends { r with capVerdict := some .heldOut } with selfLock := true }
      else if s.closing.ready = false then ends { r with capVerdict := some .driveDown }
      else { q with cycle := .loading, capGate := true, record := some r }) ∧
    u.steam =
      (if clears then { s.steam with
        valve := .shut, ticks := none, attached := false
        settle := if s.steam.commandOpen = s.pins.valveOpen then none
          else some (s.steam.settle.getD s.timeBase) }
      else s.steam) ∧
    let banks : List Notice := match s.seq.pendingBank with
      | some b => [.state (.bankChanged b)]
      | none => []
    let cleared : List Notice := if clears then [.valveFault .cleared] else []
    let status : List Notice :=
      if s.seq.pendingLock = .none then []
      else if commanded = true ∧ self = true then [.state (.headLocked 3)]
      else if self = true then [.state (.headLocked 2)]
      else if commanded = true then [.state (.headLocked 1)]
      else [.state .headUnlocked]
    let locking : List Notice := if locks then [.state (.headLocked 2)] else []
    u.link = ((banks ++ cleared ++ status ++ locking).foldl State.offer s).link
  counts : u.counters.head = s.counters.head ∧ u.counters.check = s.counters.check ∧
    u.counters.refused = s.counters.refused ∧ u.config.lifetime = s.config.lifetime
  rest : u.closing = s.closing ∧ u.verdicts = s.verdicts ∧ u.pins = s.pins ∧ u.node = s.node ∧
    u.memory = s.memory ∧ u.tracker = s.tracker ∧ u.timeBase = s.timeBase ∧ u.transit = s.transit ∧
    u.reject = s.reject

/-- The payload of a SEAL, field by field from its record (R37, section 6.7). -/
structure SealSays (p : SealPayload) (r : Record) (trimMax : Nat) (signature : Half) : Prop where
  revolution : p.revolution = r.revolution
  bank : p.bank = r.bank
  verdict : ∀ v, r.capVerdict = some v → p.capVerdict.toNat = v.code
  underflush : p.flags.getLsbD 7 = decide (r.steamResult = .underflush)
  tempClamped : p.flags.getLsbD 6 = r.tempClamped
  tempDefault : p.flags.getLsbD 5 = decide (r.tempSource = some .default)
  feedbackHeld : p.flags.getLsbD 4 = r.feedbackHeld
  valveFault : p.flags.getLsbD 3 = r.valveFault
  trimAtMax : p.flags.getLsbD 2 = decide (r.trimSnapshot = some trimMax)
  noSteam : p.flags.getLsbD 1 = decide (r.dose = 0)
  spare : p.flags.getLsbD 0 = false
  detail : p.detail.toNat = r.flushEnd.code * 32 + abortCode r.abortCause * 4
  angle : p.securityAngle = BitVec.ofNat 16 (r.securityAngle.getD 65535)
  peak : p.peakTorque = r.peakTorque.signExtend 16
  numbers : p.dose = BitVec.ofNat 16 r.dose ∧ p.temperature = BitVec.ofNat 16 (r.temperature.getD 0) ∧
    p.vPred = BitVec.ofNat 16 (r.vPred.getD 0)
  signature : p.signature = signature

/-- `u` is `s` after the record `r` has been posted, with no flush open (R36, R37, R38, R58, R87, R123,
R176). The flush is none again, T and D stand (log 30). -/
structure State.Posted (u s : State) (r : Record) : Prop where
  sequencer : u.seq = { s.seq with cycle := .idle, record := none, reachedClosing := false }
  spindle : u.closing =
    if s.seq.reachedClosing = true ∧ s.closing.phase ≠ .free then
      { s.closing with
        command := .freewheel, phase := .free, engageAngle := none, slip := 0
        sent := s.closing.sent ++ [.freewheel] }
    else s.closing
  valve : u.steam = { s.steam with
    attached := false, flush := .none
    ticks := if s.steam.valve = .faultOpen then none else s.steam.ticks }
  void : r.jarPresent = false →
    u.link = (s.offer (.void
      { revolution := r.revolution, reason := if r.voidReason = .noJar then 0#8 else 1#8 })).link ∧
    u.verdicts = s.verdicts ∧
    u.config.lifetime = { s.config.lifetime with one := s.config.lifetime.one + 1 } ∧
    u.counters.head = { s.counters.head with voids := s.counters.head.voids + 1 }
  sealed : r.jarPresent = true →
    (∃ p : SealPayload, SealSays p r (s.bankOf r.bank).trimMax s.config.signature ∧
      u.link = (s.offer (.sealed p)).link) ∧
    (r.capVerdict = some .good →
      u.config.lifetime = { s.config.lifetime with
        one := s.config.lifetime.one + 1, two := s.config.lifetime.two + 1 } ∧
      u.counters.head.sealsGood = s.counters.head.sealsGood + 1 ∧
      u.counters.head.sealsNotGood = s.counters.head.sealsNotGood) ∧
    (r.capVerdict ≠ some .good →
      u.config.lifetime = { s.config.lifetime with one := s.config.lifetime.one + 1 } ∧
      u.counters.head.sealsGood = s.counters.head.sealsGood ∧
      u.counters.head.sealsNotGood = s.counters.head.sealsNotGood + 1)
  summary : ∀ v, r.jarPresent = true → r.capVerdict = some v →
    let e : Summary :=
      { revolution := r.revolution, bank := r.bank, capVerdict := v, vPred := r.vPred, dose := r.dose }
    let old := s.verdicts.awaited
    let unanswered := s.counters.head.verdictsUnanswered
    (r.revolution ∈ old.map (·.revolution) →
      u.verdicts = s.verdicts ∧ u.counters.head.verdictsUnanswered = unanswered + 1) ∧
    (r.revolution ∉ old.map (·.revolution) → old.length < 32 →
      u.verdicts = { s.verdicts with awaited := old ++ [e] } ∧
      u.counters.head.verdictsUnanswered = unanswered) ∧
    (r.revolution ∉ old.map (·.revolution) → 32 ≤ old.length →
      u.verdicts = { s.verdicts with awaited := old.tail ++ [e] } ∧
      u.counters.head.verdictsUnanswered = unanswered + 1)
  rest : u.pins = s.pins ∧ u.node = s.node ∧ u.memory = s.memory ∧ u.tracker = s.tracker ∧
    u.transit = s.transit ∧ u.reject = s.reject

/-! ### What a statement says of a sample -/

/-- The closing unit with a good sample at `t` classified (R69) and the command in force sent again
(R72). -/
def Closing.afterGood (c : Closing) (t : Time) (d : DriveSample) : Closing :=
  { c with
    deadline := t + 600#32, sent := [c.command], lastTorque := some d.torque, lastAngle := some d.angle
    badRun := 0, ready := true }

/-- The closing unit once supplied values have been accumulated (R77) and have updated the peak (R78), from
the previous angle `p`. -/
def Closing.turned (c : Closing) (p : Half) (torque : Torque) (angle : Half) : Closing :=
  { c with
    angle := c.angle + (angle - p).signExtend 32, prevAngle := some angle
    peak := if c.peakTaken = true ∧ torque.toInt < c.peak.toInt then c.peak else torque
    peakTaken := true }

/-- The closing unit at an ending of its own (R84). -/
def Closing.ended (c : Closing) : Closing :=
  { c with phase := .parked, command := .stop, sent := c.sent ++ [.stop] }

/-- A record as a shut request with this cause leaves it: written only while the flush is open (R54). -/
def State.shutInto (s : State) (cause : FlushEnd) (r : Record) : Record :=
  if s.steam.flush = .opened then r.endFlush cause (s.steam.target.getD 0) s.steam.dose else r

/-! ### What a statement says of the check station -/

/-- The entry is a VOID. -/
def TransitEntry.isVoid : TransitEntry → Bool
  | .void _ _ _ => true
  | _ => false

/-- The entry is a GAP. -/
def TransitEntry.isGap : TransitEntry → Bool
  | .gap _ _ => true
  | _ => false

/-- The VERDICT MISSING that a SEAL gives when its window closes; other entries give none (R147). -/
def TransitEntry.missing : TransitEntry → Option Notice
  | .sealed x _ => some (.verdict
    { head := BitVec.ofNat 8 x.head, revolution := x.revolution, code := 5, flags := 0
      vMeas := 65535#16 })
  | _ => none

/-- The measured vacuum of a SEAL entry (R102, R103, step 1 of R161): absent without an OK reading and for
an unusable bank, else the floor of (D − d0) × gain / 256 within 0..P_amb. -/
def State.measures (s : State) (e : SealEntry) (reading : Option SensorReading) : Option Nat :=
  let b := s.config.banks.get e.bank
  match reading with
  | some r =>
    if r.ok = true ∧ s.config.usable.get e.bank = true then
      let v := (max (-2000) (min 2000 r.value) - b.d0) * (b.gain : Int) / 256
      some (max 0 (min (s.config.header.pAmb : Int) v)).toNat
    else none
  | none => none

/-- The VERDICT code of a judged SEAL entry (step 2 of R161): REJ_CONFIG, REJ_CAP, then ACCEPT or REJ_LOW
with a measurement, ACCEPT or REJ_PRED without one. -/
def State.sealCode (s : State) (e : SealEntry) (reading : Option SensorReading) : Byte :=
  let b := s.config.banks.get e.bank
  if e.sigMatch = false then 4
  else if e.capVerdict ≠ 0 then 1
  else match s.measures e reading with
    | some v => if v < b.vMin then 2 else 0
    | none => if e.vPred < b.vMin + b.fallbackMargin then 3 else 0

/-- A judgement without an OK reading is counted, lengthens the no-reading run, and at M enters the sensor
fallback with its notice (R162, R163). -/
def State.noted (s : State) (reading : Option SensorReading) : State :=
  if reading.any (·.ok) then s
  else
    let run := min 255 (s.reject.noReading + 1)
    let enters := s.config.header.m ≤ run ∧ s.reject.fallback = false
    let w := { s with
      reject := { s.reject with noReading := run, fallback := s.reject.fallback || decide enters }
      counters := { s.counters with
        check := { s.counters.check with unmeasured := s.counters.check.unmeasured + 1 } } }
    if enters then w.offer (.state .sensorFallback) else w

/-- `u` is `s` after the jar that arrived at `x` has been rejected (R165, R166, R169): counted, put in the
reject queue in its place or lost to a full one, and the latch set, once, for overflow or for the run. -/
def State.Rejected (u s : State) (x : Position) : Prop :=
  let gate := x + BitVec.ofNat 32 s.config.header.gGate
  let run := min 255 (s.reject.consecutive + 1)
  let full := 32 ≤ s.reject.queue.length
  let trips := 0 < s.config.header.nStop ∧ s.config.header.nStop ≤ run
  let stops := s.reject.stop = false ∧ (full ∨ trips)
  ∃ queue,
    (full → queue = s.reject.queue) ∧
    (¬ full → ∃ front back, s.reject.queue = front ++ back ∧ queue = front ++ gate :: back ∧
      (∀ g ∈ front, 0 ≤ since gate g) ∧ (∀ g, back.head? = some g → ¬ 0 ≤ since gate g)) ∧
    let c := s.counters.check
    let l := s.config.lifetime
    let w := { s with
      reject := { s.reject with
        consecutive := run, queue := queue, stop := s.reject.stop || decide stops }
      counters := { s.counters with
        check := { c with
          rejects := c.rejects + 1
          rejectOverflows := if full then c.rejectOverflows + 1 else c.rejectOverflows
          lineStops := if stops then c.lineStops + 1 else c.lineStops } }
      config := { s.config with
        lifetime := { l with two := l.two + 1, four := if stops then l.four + 1 else l.four } } }
    (¬ stops → u = w) ∧ (stops → u = w.offer (.state (.stop (if full then 1 else 2))))

/-- The flags of a VERDICT (R162), their spare bits 0. -/
def verdictFlagsSay (flags : Byte) (deviate unmeasured fallback : Bool) : Prop :=
  flags.getLsbD 7 = deviate ∧ flags.getLsbD 6 = unmeasured ∧ flags.getLsbD 5 = fallback ∧
  ∀ i, i < 5 → flags.getLsbD i = false

/-- `u` is `s` after the entry `e` that arrived at `x` has been judged (R161 to R165). -/
structure State.Judged (u s : State) (e : Matched) (x : Position) (reading : Option SensorReading) :
    Prop where
  gap : ∀ h p, e = .gap h p → u.Rejected (s.noted reading) x
  sealed : ∀ se p, e = .sealed se p →
    let n := s.noted reading
    let measured := s.measures se reading
    let code := s.sealCode se reading
    let byVacuum := se.sigMatch && se.capVerdict == 0
    let deviate := byVacuum && measured.any fun v =>
      decide ((s.config.banks.get se.bank).deviation < ((v : Int) - se.vPred).natAbs)
    ∃ flags, verdictFlagsSay flags deviate (byVacuum && measured.isNone) n.reject.fallback ∧
      let c := n.counters.check
      let w := ({ n with counters := { n.counters with
        check := { c with
          deviations := if deviate then c.deviations + 1 else c.deviations } } } : State).offer
        (.verdict
          { head := BitVec.ofNat 8 se.head, revolution := se.revolution, code := code, flags := flags
            vMeas := BitVec.ofNat 16 (measured.getD 65535) })
      (code = 0 → u = { w with
        reject := { w.reject with consecutive := 0 }
        counters := { w.counters with
          check := { w.counters.check with accepts := w.counters.check.accepts + 1 } } }) ∧
      (code ≠ 0 → u.Rejected w x)

/-- `u` is `s` with its reading slot settled for a new jar (R157). -/
def State.Settled (u s : State) : Prop :=
  let cleared := { s with reject := { s.reject with slot := .empty } }
  (∀ e x, s.reject.slot = .held e x → u.Judged cleared e x none) ∧
  ((∀ e x, s.reject.slot ≠ .held e x) → u = cleared)

/-! ### What a statement says of the link -/

/-- The entry holds a page of a report. -/
def QueueEntry.isPage (e : QueueEntry) : Bool := e.notice.kind == 10

/-- The configuration unit once `n` pages of a report have left the queue unsent (R181): the report ends with
its last page and clears nothing. -/
def ConfigUnit.pagesLeave (c : ConfigUnit) (n : Nat) : ConfigUnit :=
  if c.reportOutstanding = false ∨ n = 0 then c
  else if c.pagesInQueue ≤ n then
    { c with reportOutstanding := false, snapshot := none, pagesInQueue := 0, pagesLost := true }
  else { c with pagesInQueue := c.pagesInQueue - n, pagesLost := true }

/-- The node once its link has entered MUTE (R114, R181): the queue is empty, each of its entries is counted
in LINK_DROPPED, and the pages of a report among them are lost. -/
def State.muted (s : State) : State :=
  { s with
    link := { s.link with
      state := .mute, queue := [], mutePending := false, wire := [], shutOvertaken := false }
    counters := { s.counters with link := { s.counters.link with
      linkDropped := s.counters.link.linkDropped + BitVec.ofNat 32 s.link.queue.length } }
    config := s.config.pagesLeave (s.link.queue.countP QueueEntry.isPage) }

/-- The node with the same frame on the wire but no MUTE to come when it ends. -/
def State.unmuted (s : State) : State := { s with link := { s.link with mutePending := false } }

/-- The command is the end of a frame that the node receives: a notice taken, an address found used twice, or
a frame discarded (R111 to R113). -/
def endsFrame : Instr → Prop
  | .steamOpenReceived _ _ | .steamShutReceived _ _ | .valveFaultReceived _ _ _ | .joinReceived _ _ _
  | .verdictReceived _ _ _ | .sealReceived _ _ _ | .voidReceived _ _ _ | .duplicateAddress _
  | .selectBank _ _ _ _ | .lock _ _ _ _ | .restore _ _ _ _ | .trimReset _ _ _ _ | .clearCounts _ _ _ _
  | .report _ _ _ _ | .releaseStop _ _ _ _ | .commandOpUnknown _ _ _ _ _ => True
  | .rxFrameError _ bits => ∃ why, readFrame bits = .bad why
  | _ => False

/-! ### What a statement says of COMMAND notices -/

/-- The link delivers a frame from `sender` to the node's blocks, with nothing else due (R109, R112,
R113). -/
def State.delivers (s : State) (sender : Address) : Prop :=
  (s.link.state = .active ∨ s.link.state = .mute) ∧ s.link.mutePending = false ∧ sender ≠ s.node.address

/-- A COMMAND from a line controller whose mask names the node (tests 1 and 2 of R177). -/
def State.addressed (s : State) (sender : Address) (mask : BitVec 32) : Prop :=
  s.delivers sender ∧ (sender = 30#5 ∨ sender = 31#5) ∧ mask.getLsbD s.node.address.toNat = true

/-- The node with one COMMAND more refused (R177). -/
def State.refused (s : State) : State :=
  { s with counters := { s.counters with refused := s.counters.refused + 1 } }

/-- The laws of the closing drive, the pitch estimate, the verdict list, the trims and the check station
together (R7, R72, R122, R123, R129, R144, R163, R165, R166). -/
structure State.boundsOk (s : State) : Prop where
  drive : s.closing.commandOk
  /-- No closing runs before the blocks have started (R68). -/
  waiting : s.node.mode = .start → s.closing.phase = .free
  pitch : s.tracker.pitchOk
  awaited : s.verdicts.ok
  trims : s.trimsOk
  station : s.stationOk

end Sys2Proof.Machine
end

