-- ==== Sys2Proof/Certificates/Slice0/Obligations.lean ====
section
/-! DEFINITION. The statements for the provers, each read from the rules of spec/ that OBLIGATIONS.json
cites. `s.enter t` is the state in which a command taken at `t` finds the node (log 1): the statement
`TakingACommand` says what it is. -/

open Sys2Proof Sys2Proof.Machine

/-! ## The queue and the moment of a command -/

/-- A step takes the command at the front of the queue and runs it on the queue's rest; with none it idles
(model's choice, log 2). -/
def Obligations.StepRunsFrontCommand : Prop :=
  ∀ s : State,
    (∀ c rest, s.pending = c :: rest → step s = exec c { s with pending := rest }) ∧
    (s.pending = [] → step s = .next s)

/-- Every command answers a next state: the spec gives the block no fault that stops it. -/
def Obligations.EveryCommandAnswers : Prop :=
  ∀ (c : Instr) (s : State), ∃ u, exec c s = .next u

/-- Taking a command (R15, log 1, log 4): the time base stands at `t`, the view of the drive line is empty,
and of the tracker of a running head the phase alone moves. It never falls, passes no boundary unhanded, and
where no boundary stands in its way it is the interpolation of R15. A phase change hands the sequencer every
boundary that the phase has come to, in order (R17, R18). Of a sample event ahead of one of five commands
(R85 to R87, log 12) the closing unit's part comes before the command and the report after it; a report is not
applied outside CLOSING (R33). -/
def Obligations.TakingACommand : Prop :=
  ∀ (s : State) (t : Time),
    s.enter t = { s with
      timeBase := t, closing := { s.closing with sent := [] },
      tracker := { s.tracker with phase := (s.enter t).tracker.phase } } ∧
    (s.headRuns = false → (s.enter t).tracker = s.tracker) ∧
    (s.headRuns = true →
      let base := pocketOffset s.config.header.n s.own s.tracker.pocket * 256
      let p := (s.enter t).tracker.phase
      (s.tracker.phase ≤ 255 → s.tracker.phase ≤ p ∧ p ≤ 255) ∧
      (s.config.header.ordered = true → s.tracker.indexKnown = true →
        s.config.header.reachedBetween (base + s.tracker.phase) (base + p) = []) ∧
      (s.tracker.indexKnown = false ∨
          s.config.header.reachedBetween (base + s.tracker.phase) (base + s.tracker.phaseAt t) = [] →
        p = s.tracker.phaseAt t)) ∧
    (∀ e t0, s.tracker.lock ≠ .stopped → s.tracker.pitch = some e → s.tracker.tLast = some t0 →
      0 ≤ since t t0 → s.tracker.phase ≤ min 255 ((since t t0).toNat * 256 / e) →
      s.tracker.phaseAt t = min 255 ((since t t0).toNat * 256 / e)) ∧
    (s.tracker.lock = .stopped ∨ s.tracker.pitch = none ∨ s.tracker.tLast = none →
      s.tracker.phaseAt t = s.tracker.phase) ∧
    (∀ cap bs, s.phaseReaches t bs →
      exec (.phaseBoundary ⟨t, none⟩ cap) s = .next (bs.foldl State.handBoundary (s.atPhase t cap))) ∧
    (∀ (jar cap : Bool) (e : SampleEvent) (c : Moment → Instr) (f : State → State),
      (c = (fun m => .turretPulse m jar cap) ∧ f = fun x => x.takePulse t jar cap) ∨
      (c = (fun m => .phaseBoundary m cap) ∧ f = fun x => x.takePhase cap) ∨
      (c = .runLineFall ∧ f = State.takeRunFall) ∨
      (c = .pitchLossDeadline ∧ f = State.takeLossDeadline) ∨
      (c = .powerWarningAsserted ∧ f = State.takeAssertion) →
      exec (c ⟨t, none⟩) s = .next (f (s.enter t)) ∧
      exec (c ⟨t, some e⟩) s =
        .next ((f (s.sampledAt t (some e))).takeReport ((s.enter t).unitTakes e).2)) ∧
    (∀ report : ClosingReport, s.seq.cycle.isClosing = false → s.takeReport report = s)

/-! ## Start, power warning and save (Chapter 11) -/

/-- A reset runs the start sequence (R182, R183, log 6): with the power warning negated and the crystal not
ready yet, the node waits in START with its straps and its memory read, at power-on and at the reset line. With
the crystal ready already step 6 ends at once: the reset does what CRYSTAL_READY at 0 does to that wait. Model's
choices: the operands of a restart and steps 1 to 5 as one step (log 6), the sample deadline 0 that the closing
unit's reset values hold in START (log 7), and the bytes that a cut save has written (log 9). -/
def Obligations.ResetStarts : Prop :=
  ∀ (s : State) (inp : StartInputs) (cut : Nat), inp.crystalReady = false →
    (∀ levels : LineLevels, levels.pwarn = false →
      ∃ u, exec (.powerOnReset inp cut levels) s = .next u ∧
        u.Started (Memory.writeAll s.memory (s.node.saving.take cut)) .power inp ∧
        u.pins = { s.pins with pwarn := false, run := levels.run, valveOpen := levels.valveOpen } ∧
        exec (.powerOnReset { inp with crystalReady := true } cut levels) s = exec (.crystalReady 0) u) ∧
    (s.pins.pwarn = false →
      ∃ u, exec (.resetLine inp cut) s = .next u ∧
        u.Started (Memory.writeAll s.memory (s.node.saving.take cut)) .pin inp ∧ u.pins = s.pins ∧
        exec (.resetLine { inp with crystalReady := true } cut) s = exec (.crystalReady 0) u)

/-- A reset that ends with the power warning asserted leaves the node in SAVED with nothing to write (R186),
every block as State.reset has it. A save that the reset cuts short keeps the bytes already written, and the
marker, its last byte, stays as it was (R187). Model's choices: where State.reset holds what the start sequence has
not yet filled in (role HEAD, address 0, the failure flags false, the header, the banks, the signature, the
persistent area and the active bank at 0, the sample deadline at 0), those values are log 7's and not the spec's;
the bytes programmed from outside are an operand (log 6), and so is how far the save was cut (log 9). -/
def Obligations.ResetUnderWarning : Prop :=
  ∀ (s : State) (inp : StartInputs) (cut : Nat),
    let m := startMemory (Memory.writeAll s.memory (s.node.saving.take cut)) inp
    (∀ levels : LineLevels, levels.pwarn = true →
      exec (.powerOnReset inp cut levels) s = .next { State.reset with
        pending := s.pending, memory := m,
        pins := { s.pins with pwarn := true, run := levels.run, valveOpen := levels.valveOpen },
        node := { Node.reset with cause := .power, mode := .saved } }) ∧
    (s.pins.pwarn = true →
      exec (.resetLine inp cut) s = .next { State.reset with
        pending := s.pending, memory := m, pins := s.pins,
        node := { Node.reset with cause := .pin, mode := .saved } }) ∧
    (∀ p, s.memoryOk → s.node.saving = saveWrites p → cut < 26 → inp.memoryChanges = [] →
      Memory.read m 448 = Memory.read s.memory 448)

/-- Step 5 (R184): a node whose header and straps have passed takes up what a valid marker vouches for and
writes the marker invalid, or starts from the defaults with UNCLEAN; a node that is to go HALTED takes up
nothing and writes nothing. With the crystal ready already the verdict list has held the trims to trim max
(R121). Model's choices: the operands of a restart and steps 1 to 5 as one step (log 6); that a saved active bank
above 3 is not usable is its reading (log 19). -/
def Obligations.PersistentAreaAtStart : Prop :=
  ∀ (s : State) (inp : StartInputs), s.pins.pwarn = false → s.node.saving = [] →
    ∃ u, exec (.resetLine inp 0) s = .next u ∧
      let p := startPersistent s.memory inp
      let m := startMemory s.memory inp
      let held (b : BankId) (trim : Nat) : Nat :=
        if inp.crystalReady = false then trim
        else if u.config.usable.get b = true then min trim (u.config.banks.get b).trimMax else 0
      (u.node.halts = true → u.memory = m ∧ u.node.unclean = false ∧ u.config.lifetime = Lifetime.zero) ∧
      (u.node.halts = false → p.marker = 0xA5#8 →
        u.memory = Memory.write m 448 0 ∧ u.node.unclean = false ∧ u.config.lifetime = p.lifetime ∧
        u.config.persistent = { p with marker := 0 } ∧
        (inp.roleHigh = false →
          (∀ b, u.verdicts.trims.get b = held b (p.trims.get b).toNat) ∧
          u.seq.activeBank =
            if p.activeBank.toNat ≤ 3 ∧ u.config.usable.get (BitVec.ofNat 2 p.activeBank.toNat) = true then
              BitVec.ofNat 2 p.activeBank.toNat
            else BitVec.ofNat 2 u.config.header.initialBank)) ∧
      (u.node.halts = false → p.marker ≠ 0xA5#8 →
        u.memory = m ∧ u.node.unclean = true ∧ u.config.lifetime = Lifetime.zero ∧
        (inp.roleHigh = false →
          u.verdicts.trims = PerBank.all 0 ∧
          u.seq.activeBank = BitVec.ofNat 2 u.config.header.initialBank))

/-- The crystal becomes ready in the wait (R183 steps 6 to 8, R185): a node whose checks have passed becomes
OPERATING with its link ACTIVE and its JOIN in the queue, and the blocks of its role start (R1, R45, R68, R121
on a head, R135 on the check node). -/
def Obligations.CrystalStartsAHead : Prop :=
  ∀ (s : State) (t : Time), s.node.mode = .start → s.node.awaitingCrystal = true →
    s.node.halts = false → s.link.state = .starting → s.link.queue = [] →
    let joins (role bank : Byte) : Notice := .join
      { role := role, cause := s.node.cause.code, signature := s.config.signature, activeBank := bank,
        flags := if s.node.unclean then 0x80#8 else 0 }
    let runs (u : State) (join : Notice) : Host.Outcome State Fault Refusal := .next { u with
      node := { s.node with mode := .operating, awaitingCrystal := false, onCrystal := true }
      link := { s.link with
        state := .active, queue := [⟨join, false⟩], wire := [], shutOvertaken := false } }
    (s.node.role = .head →
      exec (.crystalReady t) s = runs (s.headBlocks t) (joins 0 (bankByte s.seq.activeBank))) ∧
    (s.node.role = .check → exec (.crystalReady t) s = runs (s.checkBlocks t) (joins 1 0))

/-- The crystal wait ends without the crystal (R183 step 6, R115): the link is OFF and the JOIN is dropped,
and a node whose checks have passed becomes OPERATING with the blocks of its role started (R1, R45, R68, R121,
R135). Before 50 ms the wait goes on. That the 50 ms count from 0 is the model's choice (log 6). -/
def Obligations.CrystalWaitEnds : Prop :=
  ∀ (s : State) (t : Time), s.node.mode = .start → s.node.awaitingCrystal = true →
    let runs (u : State) : Host.Outcome State Fault Refusal := .next { u with
      node := { s.node with mode := .operating, awaitingCrystal := false }
      link := { s.link with state := .off }
      counters := { s.counters with
        link := { s.counters.link with linkDropped := s.counters.link.linkDropped + 1 } } }
    (¬ 0 ≤ since t 50000#32 → exec (.crystalWaitExpiry t) s =
      .next { s with timeBase := t, closing := { s.closing with sent := [] } }) ∧
    (0 ≤ since t 50000#32 → s.node.halts = false → s.node.role = .head →
      exec (.crystalWaitExpiry t) s = runs (s.headBlocks t)) ∧
    (0 ≤ since t 50000#32 → s.node.halts = false → s.node.role = .check →
      exec (.crystalWaitExpiry t) s = runs (s.checkBlocks t))

/-- A node that found a failure goes HALTED at the end of its start sequence and starts no block (R183
step 8), its closing unit sending nothing (R68), whichever way the crystal wait ends. Its JOIN says which
failure it found and names no active bank (R182, R185): it is queued on a link that becomes ACTIVE, and dropped
on one that is OFF (R115). That the 50 ms of the wait count from 0 is the model's choice (log 6). -/
def Obligations.FailedStartHalts : Prop :=
  ∀ (s : State) (t : Time), s.node.mode = .start → s.node.awaitingCrystal = true →
    s.node.halts = true →
    let silent := { s.closing with sent := [] }
    let halted := { s.node with mode := .halted, awaitingCrystal := false }
    let joins : Notice := .join
      { role := if s.node.role = .head then 0 else 1, cause := s.node.cause.code
        signature := s.config.signature, activeBank := 0
        flags := (if s.node.unclean then 0x80#8 else 0) ||| (if s.node.configBad then 0x40#8 else 0) |||
          (if s.node.strapsBad then 0x20#8 else 0) }
    let dropped := { s.counters with
      link := { s.counters.link with linkDropped := s.counters.link.linkDropped + 1 } }
    (∃ u, exec (.crystalReady t) s = .next u ∧ u.node = { halted with onCrystal := true } ∧
      u.lamp = true ∧ u.link.state = (if s.link.state = .off then .off else .active) ∧
      u.tracker = s.tracker ∧ u.seq = s.seq ∧ u.steam = s.steam ∧ u.transit = s.transit ∧
      u.reject = s.reject ∧ u.verdicts = s.verdicts ∧ u.memory = s.memory ∧ u.closing = silent ∧
      (s.link.state = .starting → s.link.queue = [] → u = { s with
        timeBase := t, closing := silent, node := { halted with onCrystal := true }
        link := { s.link with
          state := .active, queue := [⟨joins, false⟩], wire := [], shutOvertaken := false } }) ∧
      (s.link.state = .off → u = { s with
        timeBase := t, closing := silent, node := { halted with onCrystal := true }
        counters := dropped })) ∧
    (0 ≤ since t 50000#32 →
      ∃ u, exec (.crystalWaitExpiry t) s = .next u ∧ u.lamp = true ∧ u = { s with
        timeBase := t, closing := silent, node := halted, link := { s.link with state := .off }
        counters := dropped })

/-- The power warning on a head at work (R39, R42, R67, R88, R134, R186), whether or not a sample event was
taken ahead of it: a cycle at work is aborted with cause POWER and posted at once, an ENDED record already
ABORTED takes POWER as a later abort, any other is posted as it stands, and a head in IDLE posts nothing. Then
the cap gate is negated, the valve is commanded shut, and the save holds the active bank, the trims as they
stood and the lifetime counters with that last posting. That a posting leaves T and D standing is log 30. -/
def Obligations.WarningSavesAHead : Prop :=
  ∀ (s : State) (t : Time) (ahead : Option SampleEvent), s.headRuns = true → s.pins.pwarn = false →
    let b : State := { s.sampledAt t ahead with pins := { s.pins with pwarn := true } }
    ∃ p, exec (.powerWarningAsserted ⟨t, ahead⟩) s = .next { p with
        seq := { p.seq with capGate := false }
        steam := { p.steam with commandOpen := false }
        node := { s.node with
          mode := .saved, awaitingCrystal := false
          saving := saveWrites
            { marker := 0xA5#8, activeBank := bankByte s.seq.activeBank,
              trims := s.verdicts.trims.map (BitVec.ofNat 16), lifetime := p.config.lifetime } } } ∧
      (s.seq.cycle = .idle → p = b) ∧
      (∀ r, s.seq.record = some r →
        s.seq.cycle ≠ .idle ∧ s.seq.cycle ≠ .ended ∨
          s.seq.cycle = .ended ∧ r.capVerdict = some .aborted →
        ∃ v r', v.Aborted b .power ∧ v.tracker = b.tracker ∧ v.seq.record = some r' ∧ p.Posted v r') ∧
      (∀ r, s.seq.record = some r → s.seq.cycle = .ended → r.capVerdict ≠ some .aborted →
        s.steam.flush ≠ .opened → (r.jarPresent = true → r.capVerdict ≠ none) → p.Posted b r)

/-- The power warning elsewhere (R154, R172, R186): the check node at work negates its reject output and
saves; a HALTED node writes nothing; a node in START writes the values handed over if its marker is already
written invalid; in SAVED a further assertion changes nothing, nor does one that the line already shows. That the pulse end becomes
absent with the output's negation is the model's choice (log 32), and what a save in START holds its reading (log
24). -/
def Obligations.WarningElsewhere : Prop :=
  ∀ (s : State) (t : Time),
    (s.pins.pwarn = true → exec (.powerWarningAsserted ⟨t, none⟩) s = .next (s.enter t)) ∧
    (s.pins.pwarn = false → s.checkRuns = true →
      exec (.powerWarningAsserted ⟨t, none⟩) s = .next { s.enter t with
        pins := { s.pins with pwarn := true }
        reject := { s.reject with output := false, pulseEnd := none }
        node := { s.node with
          mode := .saved, awaitingCrystal := false
          saving := saveWrites
            { marker := 0xA5#8, activeBank := 0, trims := PerBank.all 0,
              lifetime := s.config.lifetime } } }) ∧
    (s.pins.pwarn = false → s.node.mode = .halted →
      exec (.powerWarningAsserted ⟨t, none⟩) s = .next { s.enter t with
        pins := { s.pins with pwarn := true }
        node := { s.node with mode := .saved, awaitingCrystal := false, saving := [] } }) ∧
    (s.pins.pwarn = false → s.node.mode = .start → s.node.role = .head →
      exec (.powerWarningAsserted ⟨t, none⟩) s = .next { s.enter t with
        pins := { s.pins with pwarn := true }
        node := { s.node with
          mode := .saved, awaitingCrystal := false
          saving :=
            if s.node.awaitingCrystal = true ∧ s.node.halts = false ∧ s.node.unclean = false then
              saveWrites
                { marker := 0xA5#8, activeBank := bankByte s.seq.activeBank,
                  trims := s.verdicts.trims.map (BitVec.ofNat 16), lifetime := s.config.lifetime }
            else [] } }) ∧
    (s.pins.pwarn = false → s.node.mode = .saved →
      exec (.powerWarningAsserted ⟨t, none⟩) s = .next { s.enter t with pins := { s.pins with pwarn := true } })

/-- The end of a save with the warning still asserted (R186): the persistent area reads back as what was
saved, every other byte of the memory and every block stay. The order of the bytes inside a field of the save is
the model's choice (log 9). -/
def Obligations.SaveReadsBack : Prop :=
  ∀ (s : State) (t : Time) (inp : StartInputs) (p : Persistent), s.memoryOk → s.node.mode = .saved →
    s.node.saving = saveWrites p → s.pins.pwarn = true →
    ∃ u, exec (.saveComplete t inp) s = .next u ∧
      readPersistent (Memory.slice u.memory 448 256) = p ∧
      (∀ a, a < 448 ∨ 474 ≤ a → Memory.read u.memory a = Memory.read s.memory a) ∧
      u = { s.enter t with
        memory := u.memory, node := { s.node with saving := [] }
        config := { s.config with persistent := u.config.persistent } }

/-- The end of the warning (R187): a node in SAVED with nothing left to write restarts with cause
WARN_RECOVERY, a running save runs on, and a save that ends with the line negated restarts the node. With the
crystal ready already the restart goes on as CRYSTAL_READY at 0 does (R183 step 6). Model's choices: the operands of
a restart and steps 1 to 5 as one step (log 6), and the sample deadline 0 that the closing unit's reset values hold
in START (log 7). -/
def Obligations.NegationRestarts : Prop :=
  ∀ (s : State) (t : Time) (inp : StartInputs), inp.crystalReady = false → s.node.mode = .saved →
    (s.pins.pwarn = true → s.node.saving = [] →
      ∃ u, exec (.powerWarningNegated t inp) s = .next u ∧ u.Started s.memory .warnRecovery inp ∧
        u.pins = { s.pins with pwarn := false } ∧
        exec (.powerWarningNegated t { inp with crystalReady := true }) s = exec (.crystalReady 0) u) ∧
    (s.pins.pwarn = true → s.node.saving ≠ [] →
      exec (.powerWarningNegated t inp) s = .next { s.enter t with
        pins := { s.pins with pwarn := false } }) ∧
    (s.pins.pwarn = false → s.node.saving ≠ [] →
      ∃ u, exec (.saveComplete t inp) s = .next u ∧
        u.Started (Memory.writeAll s.memory s.node.saving) .warnRecovery inp ∧ u.pins = s.pins ∧
        exec (.saveComplete t { inp with crystalReady := true }) s = exec (.crystalReady 0) u)

/-! ## Turret position (Chapter 1) -/

/-- Close pulses (R2, R4, R5): a second close pulse is only counted; the first index mark makes the index
known at pocket 0; a later mark at pocket 0 opens the next revolution. -/
def Obligations.ClosePulses : Prop :=
  ∀ (s : State) (t : Time) (jar cap : Bool), s.headRuns = true → s.closePulseAt t →
    let w := s.atPulse t jar cap
    (s.tracker.markTaken = true → exec (.turretPulse ⟨t, none⟩ jar cap) s = .next { w with
      counters := { s.counters with
        head := { s.counters.head with extraMark := s.counters.head.extraMark + 1 } } }) ∧
    (s.tracker.markTaken = false → s.tracker.indexKnown = false →
      exec (.turretPulse ⟨t, none⟩ jar cap) s = .next { w with
        tracker := { w.tracker with indexKnown := true, markTaken := true, pocket := 0 } }) ∧
    (s.tracker.markTaken = false → s.tracker.indexKnown = true → s.tracker.pocket = 0 →
      exec (.turretPulse ⟨t, none⟩ jar cap) s = .next { w with
        tracker := { w.tracker with markTaken := true, revolution := s.tracker.revolution + 1 } })

/-- An index mark at a wrong pocket (R5, R41, R86): the pocket counter is corrected, the mismatch counted, and
the open cycle, in any state, aborted with cause INDEX, whether or not a sample event was taken ahead of it. That
the phase at the mark is the held one, below a boundary not yet handed over, is the model's choice (log 4, 31). -/
def Obligations.IndexMismatchAborts : Prop :=
  ∀ (s : State) (t : Time) (jar cap : Bool) (ahead : Option SampleEvent), s.headRuns = true →
    s.closePulseAt t → s.tracker.markTaken = false → s.tracker.indexKnown = true → s.tracker.pocket ≠ 0 →
    let mismatched (w : State) : State := { w with
      pins := { s.pins with jarPresent := jar, capPresent := cap }
      tracker := { (s.enter t).tracker with
        markTaken := true, revolution := s.tracker.revolution + 1, pocket := 0 }
      counters := { w.counters with
        head := { w.counters.head with indexMismatch := w.counters.head.indexMismatch + 1 } } }
    (s.seq.cycle = .idle → exec (.turretPulse ⟨t, none⟩ jar cap) s = .next (mismatched (s.enter t))) ∧
    (s.seq.cycle ≠ .idle → ∃ u, exec (.turretPulse ⟨t, ahead⟩ jar cap) s = .next u ∧
      u.tracker = (mismatched (s.enter t)).tracker ∧ u.Aborted (mismatched (s.sampledAt t ahead)) .index)

/-- A counted pulse in ACQUIRE or STOPPED (R3, R7, R8, R9, R14): the pocket advances, the pitch estimate
moves toward a valid period by a quarter, and the eighth in-window period locks the tracker. The boundaries
that its jump reaches are handed to the sequencer in their order (R18); while the index is unknown there are
none and nothing else changes. -/
def Obligations.CountedPulseUnlocked : Prop :=
  ∀ (s : State) (t : Time) (jar cap : Bool), s.headRuns = true → ¬ s.closePulseAt t →
    let w := s.atPulse t jar cap
    let tr := { w.tracker with
      pocket := (s.tracker.pocket + 1) % s.config.header.n, lastPulse := some t, markTaken := false,
      phase := 0 }
    ∃ u, exec (.turretPulse ⟨t, none⟩ jar cap) s = .next u ∧
      (s.tracker.lock ≠ .locked → s.tracker.indexKnown = false → u = { w with tracker := u.tracker }) ∧
      (s.tracker.lock ≠ .locked →
        u = (s.pulseBoundaries t).foldl State.handBoundary (s.atCounted t jar cap u.tracker)) ∧
      (s.tracker.lock = .stopped → u.tracker = tr) ∧
      (s.tracker.lock = .acquire → s.tracker.tLast = none → u.tracker = { tr with tLast := some t }) ∧
      (∀ t0, s.tracker.lock = .acquire → s.tracker.tLast = some t0 →
        let m := since t t0
        let valid := 50000 ≤ m ∧ m ≤ 4000000
        (s.tracker.pitch = none → ¬ valid → u.tracker = { tr with tLast := some t }) ∧
        (s.tracker.pitch = none → valid →
          u.tracker = { tr with tLast := some t, pitch := some m.toNat }) ∧
        (∀ e, s.tracker.pitch = some e → ¬ valid →
          u.tracker = { tr with tLast := some t, inWindow := 0 }) ∧
        (∀ e, s.tracker.pitch = some e → valid →
          let tr := { tr with tLast := some t, pitch := some ((e : Int) + Int.tdiv (m - e) 4).toNat }
          (¬ inWindowOf e m → u.tracker = { tr with inWindow := 0 }) ∧
          (inWindowOf e m → s.tracker.inWindow + 1 < 8 →
            u.tracker = { tr with inWindow := s.tracker.inWindow + 1 }) ∧
          (inWindowOf e m → 8 ≤ s.tracker.inWindow + 1 →
            u.tracker = { tr with lock := .locked, inWindow := 0, miss := 0 })))

/-- A counted pulse in LOCKED (R3, R7, R10, R12, R18, R40): an in-window period moves the estimate by an
eighth, a miss is counted, the third miss in a row is a pitch loss, which is counted and aborts a cycle at work.
The boundaries that the pulse's jump reaches are handed to the sequencer after that, in their order. -/
def Obligations.CountedPulseLocked : Prop :=
  ∀ (s : State) (t t0 : Time) (e : Nat) (jar cap : Bool), s.headRuns = true → ¬ s.closePulseAt t →
    s.tracker.lock = .locked → s.tracker.pitch = some e → s.tracker.tLast = some t0 →
    let w := s.atPulse t jar cap
    let m := since t t0
    let tr := { w.tracker with
      pocket := (s.tracker.pocket + 1) % s.config.header.n, lastPulse := some t, markTaken := false,
      phase := 0, tLast := some t }
    ∃ u, exec (.turretPulse ⟨t, none⟩ jar cap) s = .next u ∧
      (inWindowOf e m →
        u.tracker = { tr with pitch := some ((e : Int) + Int.tdiv (m - e) 8).toNat, miss := 0 }) ∧
      (¬ inWindowOf e m → s.tracker.miss < 2 → u.tracker = { tr with miss := s.tracker.miss + 1 }) ∧
      (¬ inWindowOf e m → 2 ≤ s.tracker.miss →
        u.tracker = { tr with lock := .acquire, inWindow := 0, miss := 0 }) ∧
      (inWindowOf e m ∨ s.tracker.miss < 2 → s.tracker.indexKnown = false →
        u = { w with tracker := u.tracker }) ∧
      (inWindowOf e m ∨ s.tracker.miss < 2 ∨ s.seq.cycle.working = false →
        u = (s.pulseBoundaries t).foldl State.handBoundary (s.atCounted t jar cap u.tracker)) ∧
      (¬ inWindowOf e m → 2 ≤ s.tracker.miss → s.seq.cycle.working = true →
        ∃ v, v.Aborted (s.atCounted t jar cap u.tracker) .pitch ∧ v.tracker = u.tracker ∧
          u = (s.pulseBoundaries t).foldl State.handBoundary v) ∧
      (¬ inWindowOf e m → 2 ≤ s.tracker.miss →
        u.counters.head.pitchLoss = s.counters.head.pitchLoss + 1)

/-- The pitch-loss deadline t_last + 4×E in LOCKED (R11, R12, R40, R86): once reached it is a pitch loss, which
aborts a cycle that is FLUSHING or CLOSING before DWELL, whether or not a sample event was taken ahead of it;
not yet reached it does nothing. -/
def Obligations.PitchLossDeadline : Prop :=
  ∀ (s : State) (t t0 : Time) (e : Nat) (ahead : Option SampleEvent), s.headRuns = true →
    s.tracker.lock = .locked → s.tracker.pitch = some e → s.tracker.tLast = some t0 →
    let due := 0 ≤ since t (t0 + BitVec.ofNat 32 (4 * e))
    let lost (w : State) : State := { w with
      tracker := { (s.enter t).tracker with lock := .acquire, inWindow := 0, miss := 0 }
      counters := { w.counters with
        head := { w.counters.head with pitchLoss := w.counters.head.pitchLoss + 1 } } }
    (¬ due → exec (.pitchLossDeadline ⟨t, none⟩) s = .next (s.enter t)) ∧
    (due → s.seq.cycle.working = false → exec (.pitchLossDeadline ⟨t, none⟩) s = .next (lost (s.enter t))) ∧
    (due → s.seq.cycle.working = true → ∃ u, exec (.pitchLossDeadline ⟨t, ahead⟩) s = .next u ∧
      u.tracker = (lost (s.enter t)).tracker ∧ u.Aborted (lost (s.sampledAt t ahead)) .pitch)

/-- The run line (R13, R14, R40, R86): a fall stops the tracker and aborts a cycle at work with cause RUN_OFF,
whether or not a sample event was taken ahead of it; a rise takes it from STOPPED to ACQUIRE; E, the pocket,
the index and the phase stay. That a fall taken at a boundary's phase time freezes the phase just below that
boundary is the model's choice (log 29). -/
def Obligations.RunLineChanges : Prop :=
  ∀ (s : State) (t : Time) (ahead : Option SampleEvent), s.headRuns = true →
    let w := s.enter t
    let fallen (w : State) : State := { w with pins := { s.pins with run := false } }
    let stopped := if s.tracker.lock = .stopped then w.tracker
      else { w.tracker with lock := .stopped, tLast := none, inWindow := 0, miss := 0 }
    (s.seq.cycle.working = false →
      exec (.runLineFall ⟨t, none⟩) s = .next { fallen w with tracker := stopped }) ∧
    (s.seq.cycle.working = true → ∃ u, exec (.runLineFall ⟨t, ahead⟩) s = .next u ∧ u.tracker = stopped ∧
      u.Aborted (fallen (s.sampledAt t ahead)) .runOff) ∧
    exec (.runLineRise t) s = .next { w with
      pins := { s.pins with run := true }
      tracker := if s.tracker.lock = .stopped then
          { w.tracker with lock := .acquire, inWindow := 0, miss := 0 }
        else w.tracker }

/-! ## The seal cycle (Chapter 2) -/

/-- INFEED in IDLE with the run line high and nothing pending (R23, R24, R25): a record is opened, and the
first prevent-start check that applies ends the cycle; with none the cap gate is asserted and the cycle is
LOADING. -/
def Obligations.InfeedChecks : Prop :=
  ∀ (s : State) (t : Time) (jar cap : Bool), s.infeedAlone t → s.pins.run = true →
    s.seq.cycle = .idle → s.seq.pendingBank = none → s.seq.pendingLock = .none →
    ∃ u, exec (.turretPulse ⟨t, none⟩ jar cap) s = .next u ∧
      let q := { s.seq with lastTemp := none, reachedClosing := false }
      let r := Record.opened s.tracker.revolution s.seq.activeBank jar
      let faulted := s.steam.valve = .faultOpen ∨ s.steam.valve = .faultShut
      let locked := s.seq.commandedLock = true ∨ s.seq.selfLock = true
      let locks := ¬ locked ∧ jar = true ∧ u.tracker.lock = .locked ∧ faulted
      u.seq =
        (if locked then
          { q with
            cycle := .ended
            record := some (if jar then { r with capVerdict := some .heldOut }
              else { r with voidReason := .lockedEmpty }) }
        else if jar = false then { q with cycle := .ended, record := some { r with voidReason := .noJar } }
        else if u.tracker.lock ≠ .locked then
          { q with cycle := .ended, record := some { r with capVerdict := some .unsynced } }
        else if faulted then
          { q with
            cycle := .ended, selfLock := true, record := some { r with capVerdict := some .heldOut } }
        else if s.closing.ready = false then
          { q with cycle := .ended, record := some { r with capVerdict := some .driveDown } }
        else { q with cycle := .loading, capGate := true, record := some r }) ∧
      (locks → u.link = ((s.enter t).offer (.state (.headLocked 2))).link) ∧
      (¬ locks → u.link = s.link ∧ u.config = s.config) ∧
      u.steam = s.steam ∧ u.closing = { s.closing with sent := [] } ∧ u.verdicts = s.verdicts ∧
      u.pins = { s.pins with jarPresent := jar, capPresent := cap } ∧ u.node = s.node ∧
      u.memory = s.memory ∧ u.transit = s.transit ∧ u.reject = s.reject

/-- What waits at an INFEED (R21, R22, R26, R51): a record left open is posted whatever the run line, given
ABORTED with cause INDEX if it has no verdict; then, with the line high, a pending bank becomes the active one,
a pending LOCK or RESTORE takes effect, each with its notice, and a record is opened, while with the line low
all of it goes on waiting. The order of posting and taking up is that of R26. That a posting leaves T and D
standing is log 30. -/
def Obligations.InfeedTakesWhatWaits : Prop :=
  ∀ (s : State) (t : Time) (jar cap : Bool), s.infeedAlone t →
    ∃ u, exec (.turretPulse ⟨t, none⟩ jar cap) s = .next u ∧
      let b := s.atCounted t jar cap u.tracker
      (s.seq.cycle = .idle → s.pins.run = true → u.TookUp b) ∧
      (s.seq.cycle = .idle → s.pins.run = false → u = b) ∧
      (∀ r, s.seq.cycle = .ended → s.seq.record = some r → s.steam.flush ≠ .opened →
        let left := if r.jarPresent = true ∧ r.capVerdict = none then
            { r with capVerdict := some .aborted, abortCause := some .index }
          else r
        (s.pins.run = false → u.Posted b left) ∧
        (s.pins.run = true → ∃ p, p.Posted b left ∧ u.TookUp p))

/-- PICK (R20, R27): a LOADING cycle negates its cap gate and becomes PRIMED with a cap present, ENDED with
NO_CAP without one; a cycle in any other state passes the boundary unchanged. -/
def Obligations.PickDecides : Prop :=
  ∀ (s : State) (t : Time) (cap : Bool), s.phaseReaches t [.pick] →
    let w := s.atPhase t cap
    (s.seq.cycle = .loading → cap = true →
      exec (.phaseBoundary ⟨t, none⟩ cap) s = .next { w with
        seq := { s.seq with capGate := false, cycle := .primed } }) ∧
    (s.seq.cycle = .loading → cap = false →
      exec (.phaseBoundary ⟨t, none⟩ cap) s = .next { w with
        seq := { s.seq with
          capGate := false, cycle := .ended
          record := s.seq.record.map fun r => { r with capVerdict := some .noCap } } }) ∧
    (s.seq.cycle ≠ .loading → exec (.phaseBoundary ⟨t, none⟩ cap) s = .next w)

/-- FLUSH_START (R28, R29, R53): the temperature, the trim and the target are written, and the valve is
asked to open as its state and feedback allow; with the run line low the cycle is aborted. A temperature
reading replaces the last one. -/
def Obligations.FlushStartOpens : Prop :=
  (∀ (s : State) (t : Time) (reading : SensorReading), s.headRuns = true →
    exec (.temperatureReading t reading) s = .next { s.enter t with
      seq := { s.seq with lastTemp := some reading } }) ∧
  ∀ (s : State) (t : Time) (cap : Bool) (r : Record), s.phaseReaches t [.flushStart] →
    s.seq.cycle = .primed → s.seq.record = some r →
    let w := s.atPhase t cap
    let trim := s.verdicts.trims.get r.bank
    let target := (s.bankOf r.bank).doseTarget + trim
    let r1 := match s.seq.lastTemp with
      | some ⟨v, true⟩ =>
        { r with
          temperature := some (if v < 0 then 0 else if 1000 < v then 1000 else v.toNat)
          tempSource := some .sensor, tempClamped := decide (v < 0 ∨ 1000 < v) }
      | _ =>
        { r with
          temperature := some (s.bankOf s.seq.activeBank).defaultTemp, tempSource := some .default }
    let r2 := { r1 with trimSnapshot := some trim, target := some target, dose := 0 }
    let q := { s.seq with cycle := .flushing, record := some r2 }
    let st := { s.steam with flush := .opened, attached := true, target := some target, dose := 0 }
    let idle := s.steam.valve = .shut ∨ s.steam.valve = .shutting
    let faulted := s.steam.valve = .faultOpen ∨ s.steam.valve = .faultShut
    (s.pins.run = true → idle → s.pins.valveOpen = false →
      exec (.phaseBoundary ⟨t, none⟩ cap) s = .next { w with
        seq := q, steam := { st with commandOpen := true, valve := .opening, settle := some t } }) ∧
    (s.pins.run = true → idle → s.pins.valveOpen = true →
      exec (.phaseBoundary ⟨t, none⟩ cap) s = .next (({ w with
        seq := q
        steam := { st with
          commandOpen := true, valve := .opened, settle := none, ticks := some (t + 1000#32) } } :
        State).offer .steamOpen)) ∧
    (s.pins.run = true → faulted → 0 < target →
      exec (.phaseBoundary ⟨t, none⟩ cap) s = .next { w with
        seq := { q with
          record := some { r2 with
            valveFault := true, flushEnd := .valve, steamResult := .underflush } }
        steam := { st with flush := .ended }
        counters := { s.counters with
          head := { s.counters.head with underflushes := s.counters.head.underflushes + 1 } } }) ∧
    (s.pins.run = false → ∃ u, exec (.phaseBoundary ⟨t, none⟩ cap) s = .next u ∧ u.tracker = w.tracker ∧
      u.Aborted w .runOff)

/-- APPLY_START (R32, R73): a FLUSHING cycle starts its closing under the record's bank, SPIN being
commanded at once; with the run line low the cycle is aborted with cause RUN_OFF. -/
def Obligations.ApplyStartSeeks : Prop :=
  ∀ (s : State) (t : Time) (cap : Bool) (r : Record), s.phaseReaches t [.applyStart] →
    s.seq.cycle = .flushing → s.seq.record = some r →
    let w := s.atPhase t cap
    let b := s.bankOf r.bank
    (s.pins.run = true → s.closing.phase = .free →
      exec (.phaseBoundary ⟨t, none⟩ cap) s = .next { w with
        seq := { s.seq with cycle := .closing .seek, reachedClosing := true }
        closing := { s.closing with
          phase := .seek, command := .spin b.spinSpeed, sent := [.spin b.spinSpeed]
          limits := some ⟨b.tEngage, b.tFinal, b.tHold, b.spinSpeed, b.sMax, b.aMin, b.aMax⟩
          angle := 0, engageAngle := none, slip := 0, prevAngle := s.closing.lastAngle
          peakTaken := false } }) ∧
    (s.pins.run = false → ∃ u, exec (.phaseBoundary ⟨t, none⟩ cap) s = .next u ∧ u.tracker = w.tracker ∧
      u.Aborted w .runOff)

/-- FLUSH_END (R34, R54, R56): in CLOSING a flush still open ends with cause ZONE_END, and the valve goes
as its state and feedback say; a flush already ended, and a cycle not in CLOSING, stay as they are. -/
def Obligations.FlushEndShuts : Prop :=
  ∀ (s : State) (t : Time) (cap : Bool) (sub : SubPhase), s.phaseReaches t [.flushEnd] →
    let w := s.atPhase t cap
    let full := s.steam.target.getD 0 ≤ s.steam.dose
    let w1 := { w with
      seq := { s.seq with
        record := s.seq.record.map fun r : Record =>
          r.endFlush .zoneEnd (s.steam.target.getD 0) s.steam.dose }
      counters := if full then s.counters else { s.counters with
        head := { s.counters.head with underflushes := s.counters.head.underflushes + 1 } } }
    let st := { s.steam with flush := .ended, commandOpen := false }
    (s.seq.cycle = .closing sub → s.steam.flush = .opened → s.steam.valve = .opened →
      exec (.phaseBoundary ⟨t, none⟩ cap) s = .next (({ w1 with
        steam := if s.pins.valveOpen then
            { st with valve := .shutting, settle := some t, ticks := none }
          else { st with valve := .shut, settle := none, ticks := none, attached := false } } :
        State).offer .steamShut)) ∧
    (s.seq.cycle = .closing sub → s.steam.flush = .opened → s.steam.valve = .opening →
      s.pins.valveOpen = false →
      exec (.phaseBoundary ⟨t, none⟩ cap) s = .next { w1 with
        steam := { st with valve := .shut, settle := none, attached := false } }) ∧
    (s.seq.cycle.isClosing = false ∨ s.steam.flush ≠ .opened →
      exec (.phaseBoundary ⟨t, none⟩ cap) s = .next w)

/-- APPLY_END (R33, R35, R85, R86): a closing still in SEEK or TIGHTEN is UNFINISHED and its spindle is
stopped; DWELL passes it. With a sample event taken ahead of it the verdict is the same and the report is not
applied: a unit that the sample has stopped stays PARKED, one that it has seated has HOLD in force and is then
stopped, and the record keeps the fields of the last report applied. That the sent view shows the command in
force, HOLD and STOP in this order is log 11. -/
def Obligations.ApplyEndUnfinished : Prop :=
  ∀ (s : State) (t : Time) (cap : Bool) (ahead : Option SampleEvent), s.phaseReaches t [.applyEnd] →
    let w := s.atPhase t cap
    let x := s.sampledPhase t cap ahead
    let unfinished := { s.seq with
      cycle := .ended
      record := s.seq.record.map fun r => { r with capVerdict := some .unfinished } }
    let applies := s.seq.cycle = .closing .seek ∨ s.seq.cycle = .closing .tighten
    (applies → s.steam.flush ≠ .opened → exec (.phaseBoundary ⟨t, ahead⟩ cap) s = .next { x with
      closing := if x.closing.phase.running then
          { x.closing with phase := .parked, command := .stop, sent := x.closing.sent ++ [.stop] }
        else x.closing
      seq := unfinished }) ∧
    (∀ (d : DriveSample) (l : ClosingLimits) (p : Half) (engage : BitVec 32),
      applies → s.steam.flush ≠ .opened → ahead = some (.arrival d) → sampleGood d = true →
      s.closing.phase = .tighten → s.closing.limits = some l → s.closing.prevAngle = some p →
      s.closing.engageAngle = some engage → (l.tFinal : Int) ≤ d.torque.toInt →
      let c := (s.closing.afterGood t d).turned p d.torque d.angle
      (l.aMin : Int) ≤ (c.angle - engage).toInt → (c.angle - engage).toInt ≤ l.aMax →
      exec (.phaseBoundary ⟨t, ahead⟩ cap) s = .next { w with
        closing := { c with
          phase := .parked, slip := 0, command := .stop
          sent := [s.closing.command, .hold l.tFinal, .stop] }
        seq := unfinished }) ∧
    (s.seq.cycle = .closing .dwell ∨ s.seq.cycle.isClosing = false →
      exec (.phaseBoundary ⟨t, none⟩ cap) s = .next w)

/-- RELEASE (R33, R36, R37, R38, R87): a cycle in DWELL becomes GOOD with its predicted vacuum and is posted;
an ENDED one is posted as it stands. With a sample event taken ahead of it the cycle is GOOD all the same, the
fourth low sample included: SLIPPED is not applied, and the release takes the unit from PARKED to FREE. That the
sent view shows the command in force, STOP and FREEWHEEL in this order is log 11, that a posting leaves T and D
standing log 30. -/
def Obligations.ReleasePosts : Prop :=
  ∀ (s : State) (t : Time) (cap : Bool) (ahead : Option SampleEvent) (r : Record),
    s.phaseReaches t [.release] → s.seq.record = some r → s.steam.flush ≠ .opened →
    (s.seq.cycle = .closing .dwell →
      ∃ u, exec (.phaseBoundary ⟨t, ahead⟩ cap) s = .next u ∧ u.Posted (s.sampledPhase t cap ahead)
        { r with
          capVerdict := some .good
          vPred := some (predictedVacuum s.config.header.pAmb (s.bankOf r.bank).tCool
            (s.bankOf r.bank).purge (r.temperature.getD 0) r.dose) } ∧
        ∀ (d : DriveSample) (l : ClosingLimits), s.seq.reachedClosing = true →
          ahead = some (.arrival d) → sampleGood d = true → s.closing.phase = .dwell →
          s.closing.limits = some l → d.torque.toInt < l.tHold → 3 ≤ s.closing.slip →
          u.closing.phase = .free ∧ u.closing.sent = [s.closing.command, .stop, .freewheel]) ∧
    (s.seq.cycle = .ended → (r.jarPresent = true → r.capVerdict ≠ none) →
      ∃ u, exec (.phaseBoundary ⟨t, ahead⟩ cap) s = .next u ∧ u.Posted (s.sampledPhase t cap ahead) r)

/-! ## Steam flush and the shared header (Chapter 3) -/

/-- A change of the valve feedback (R46 to R50, R58, R63): what each valve state makes of it. Showing the
level it showed already is no change. -/
def Obligations.ValveFeedbackFollows : Prop :=
  ∀ (s : State) (t : Time) (shown : Bool), s.headRuns = true →
    let w := { s.enter t with pins := { s.pins with valveOpen := shown } }
    let runs := some (s.steam.settle.getD t)
    let run (st : Steam) : Host.Outcome State Fault Refusal := .next { w with steam := st }
    let e := exec (.valveFeedbackChange t shown) s
    (s.pins.valveOpen = shown → e = .next (s.enter t)) ∧
    (s.pins.valveOpen ≠ shown →
      (s.steam.valve = .opening → shown = true →
        e = .next (({ w with steam := { s.steam with
          valve := .opened, settle := none, ticks := some (t + 1000#32) } } : State).offer .steamOpen)) ∧
      (s.steam.valve = .opened → s.steam.commandOpen = true → shown = false →
        e = run { s.steam with settle := runs }) ∧
      (s.steam.valve = .opened → s.steam.commandOpen = true → shown = true →
        e = run { s.steam with settle := none }) ∧
      (s.steam.valve = .shutting → shown = false →
        e = run { s.steam with valve := .shut, settle := none, attached := false }) ∧
      (s.steam.valve = .shut ∨ s.steam.valve = .faultShut → s.steam.commandOpen = false → shown = true →
        e = run { s.steam with settle := runs }) ∧
      (s.steam.valve = .shut ∨ s.steam.valve = .faultShut → s.steam.commandOpen = false → shown = false →
        e = run { s.steam with settle := none }) ∧
      (s.steam.valve = .faultOpen → s.steam.commandOpen = false → shown = false →
        e = .next (({ w with steam := { s.steam with
          valve := .shut, settle := none, ticks := none, attached := false } } : State).offer
          (.valveFault .cleared))))

/-- The settle timer has run for s_v (R46, R57, R58): a valve commanded open goes to FAULT_SHUT and ends an
open flush with cause VALVE, one commanded shut goes to FAULT_OPEN, where the dose of an attached cycle
goes on if it was SHUTTING below T. Before s_v nothing happens. -/
def Obligations.SettleTimeFaults : Prop :=
  ∀ (s : State) (t t1 : Time), s.headRuns = true → s.steam.settle = some t1 →
    let due := 0 ≤ since t (t1 + BitVec.ofNat 32 (s.config.header.settleMs * 1000))
    let w := { s.enter t with
      config := { s.config with
        lifetime := { s.config.lifetime with three := s.config.lifetime.three + 1 } }
      counters := { s.counters with
        head := { s.counters.head with valveFaults := s.counters.head.valveFaults + 1 } } }
    let faulty (r : Record) : Record := if s.steam.attached then { r with valveFault := true } else r
    let full := s.steam.target.getD 0 ≤ s.steam.dose
    let e := exec (.settleTimerExpiry t) s
    (¬ due → e = .next (s.enter t)) ∧
    (due → s.steam.valve = .opening ∨ s.steam.valve = .opened → s.steam.flush = .opened →
      e = .next (({ w with
        counters := if full then w.counters else { w.counters with
          head := { w.counters.head with underflushes := s.counters.head.underflushes + 1 } }
        seq := { s.seq with
          record := s.seq.record.map fun r =>
            (faulty r).endFlush .valve (s.steam.target.getD 0) s.steam.dose }
        steam := { s.steam with
          valve := .faultShut, commandOpen := false, settle := none, ticks := none
          flush := .ended } } : State).offer (.valveFault .stuckShut))) ∧
    (due → s.steam.valve = .shut ∨ s.steam.valve = .shutting ∨ s.steam.valve = .faultShut →
      e = .next (({ w with
        seq := { s.seq with record := s.seq.record.map faulty }
        steam := { s.steam with
          valve := .faultOpen, settle := none
          ticks := if s.steam.valve = .shutting ∧ s.steam.attached = true ∧
              s.steam.dose < s.steam.target.getD 0 then some (t + 1000#32) else none } } :
        State).offer (.valveFault .stuckOpen)))

/-- A dose tick (R63, R64, R65): the share of the header from the roster as it stands, the increment, and
the end of the count at T. -/
def Obligations.DoseTickCounts : Prop :=
  ∀ (s : State) (t due : Time), s.headRuns = true → s.steam.ticks = some due →
    let n := 1 + (s.steam.roster.filter fun e => e.state ≠ .closed).length
    let k := s.config.header.k
    let qn := s.config.header.qn
    let share := if n ≤ k then 256 else 256 * k / n
    let i := max 1 ((qn * share + 128) / 256)
    let d := min 65535 (s.steam.dose + i)
    let target := s.steam.target.getD 0
    let w := s.enter t
    let counted := { s.steam with dose := d, ticks := some (due + 1000#32) }
    let e := exec (.doseTick t) s
    (¬ 0 ≤ since t due → e = .next w) ∧
    (0 ≤ since t due → d < target → e = .next { w with
      steam := counted
      seq := { s.seq with record := s.seq.record.map fun r => { r with dose := d } } }) ∧
    (0 ≤ since t due → target ≤ d → s.steam.valve = .opened → s.steam.flush = .opened →
      e = .next (({ w with
        steam := if s.pins.valveOpen then
            { counted with
              valve := .shutting, commandOpen := false, flush := .ended, settle := some t, ticks := none }
          else
            { counted with
              valve := .shut, commandOpen := false, flush := .ended, settle := none, ticks := none
              attached := false }
        seq := { s.seq with
          record := s.seq.record.map fun r =>
            { r with dose := d, flushEnd := .target, steamResult := .full } } } : State).offer
        .steamShut)) ∧
    (0 ≤ since t due → target ≤ d → s.steam.valve = .faultOpen → e = .next { w with
      steam := { counted with ticks := none }
      seq := { s.seq with
        record := s.seq.record.map fun r => { r with dose := d, steamResult := .full } } }) ∧
    (n ≤ s.steam.roster.length + 1) ∧
    (k < n → 1 ≤ k → n ≤ 24 → 10 ≤ share ∧ share ≤ 255) ∧
    (share = 256 → 1 ≤ qn → i = qn) ∧
    (qn = 1 → share < 128 → i = 1)

/-- What a head hears of a peer (R60, R62): the entry follows the notice from every prior state, in an
ACTIVE and in a MUTE link; an address without an entry changes nothing. -/
def Obligations.RosterFollowsNotices : Prop :=
  ∀ (s : State) (t : Time) (p : Address) (join : JoinPayload), s.headRuns = true →
    s.link.state = .active ∨ s.link.state = .mute → s.link.mutePending = false → p ≠ s.node.address →
    let becomes (st : RosterState) : Host.Outcome State Fault Refusal := .next { s.enter t with
      steam := { s.steam with
        roster := s.steam.roster.map fun e => if e.peer = p.toNat then { e with state := st } else e } }
    exec (.steamOpenReceived t p) s =
      becomes (.opened (t + BitVec.ofNat 32 (s.config.header.rosterMs * 1000))) ∧
    exec (.steamShutReceived t p) s = becomes .closed ∧
    exec (.valveFaultReceived t p 1) s = becomes .stuck ∧
    exec (.valveFaultReceived t p 2) s = becomes .closed ∧
    exec (.valveFaultReceived t p 3) s = becomes .closed ∧
    (∀ f : Byte, f = 0 ∨ 3 < f.toNat → exec (.valveFaultReceived t p f) s = .next (s.enter t)) ∧
    (p ≠ 24#5 → exec (.joinReceived t p join) s = becomes .closed) ∧
    ((∀ e ∈ s.steam.roster, e.peer ≠ p.toNat) →
      exec (.steamOpenReceived t p) s = .next (s.enter t))

/-- A roster entry whose expiry time is reached becomes CLOSED and is counted stale (R61); entries CLOSED
or STUCK, and an expiry not yet reached, stay as they are. -/
def Obligations.RosterEntryExpires : Prop :=
  ∀ (s : State) (t : Time) (p : Address), s.headRuns = true →
    let w := s.enter t
    (∀ e expiry, e ∈ s.steam.roster → e.peer = p.toNat → e.state = .opened expiry → 0 ≤ since t expiry →
      exec (.rosterExpiry t p) s = .next { w with
        steam := { s.steam with
          roster := s.steam.roster.map fun e =>
            if e.peer = p.toNat then { e with state := .closed } else e }
        counters := { s.counters with
          head := { s.counters.head with rosterStale := s.counters.head.rosterStale + 1 } } }) ∧
    ((∀ e ∈ s.steam.roster, e.peer = p.toNat →
        ∀ expiry, e.state = .opened expiry → ¬ 0 ≤ since t expiry) →
      exec (.rosterExpiry t p) s = .next w)

/-! ## Closing the cap (Chapter 4) -/

/-- Samples outside a closing, and what makes a sample good (R69, R70, R71, R72, R88): a good one sets the
last good values and drive-ready, a bad or a missing one is counted and clears it; every arrival moves the
deadline 600 µs ahead of it and sends the command in force again. The status bit counts in the parity as
log 10 chooses. -/
def Obligations.SamplesOutsideAClosing : Prop :=
  ∀ (s : State) (t : Time) (d : DriveSample), s.headRuns = true →
    s.closing.phase = .free ∨ s.closing.phase = .parked →
    let ones := (List.range 12).countP (fun i => d.torque.getLsbD i) +
      (List.range 16).countP (fun i => d.angle.getLsbD i) +
      (if d.status = .fault then 1 else 0) + (if d.parity then 1 else 0)
    let good := ones % 2 = 0 ∧ d.status = .ok
    let w := s.enter t
    let bad := { s.counters.head with badSamples := s.counters.head.badSamples + 1 }
    let run := min 2 (s.closing.badRun + 1)
    (good → exec (.driveSample t d) s = .next { w with closing := s.closing.afterGood t d }) ∧
    (¬ good → exec (.driveSample t d) s = .next { w with
      closing := { s.closing with
        deadline := t + 600#32, sent := [s.closing.command], badRun := run, ready := false }
      counters := { s.counters with head := bad } }) ∧
    (¬ 0 ≤ since t s.closing.deadline → exec (.sampleDeadline t) s = .next w) ∧
    (0 ≤ since t s.closing.deadline → exec (.sampleDeadline t) s = .next { w with
      closing := { s.closing with
        deadline := s.closing.deadline + 600#32, sent := [], badRun := run, ready := false }
      counters := { s.counters with
        head := { bad with driveTimeouts := s.counters.head.driveTimeouts + 1 } } })

/-- A good sample in SEEK (R74, R77 to R80): T_engage is the engage, which ends an open flush with ENGAGE;
else an angle past S_max is NO_ENGAGE; else the closing stays. That the sent view shows the command in force
before a STOP is the model's choice of log 11. -/
def Obligations.SeekTest : Prop :=
  ∀ (s : State) (t : Time) (d : DriveSample) (l : ClosingLimits) (p : Half) (sub : SubPhase),
    s.headRuns = true → sampleGood d = true → s.closing.phase = .seek → s.closing.limits = some l →
    s.closing.prevAngle = some p → s.seq.cycle = .closing sub →
    let w := s.enter t
    let c := (s.closing.afterGood t d).turned p d.torque d.angle
    let measured (r : Record) : Record := { r with peakTorque := c.peak }
    ∃ u, exec (.driveSample t d) s = .next u ∧
      ((l.tEngage : Int) ≤ d.torque.toInt →
        u.closing = { c with engageAngle := some c.angle, phase := .tighten } ∧
        u.seq = { s.seq with
          cycle := .closing .tighten
          record := s.seq.record.map fun r =>
            s.shutInto .engage { measured r with securityAngle := some 0 } } ∧
        u.FlushShut w) ∧
      (d.torque.toInt < l.tEngage → (l.sMax : Int) < c.angle.toInt →
        u.closing = c.ended ∧
        u.seq = { s.seq with
          cycle := .ended
          record := s.seq.record.map fun r =>
            { s.shutInto .abort (measured r) with capVerdict := some .noEngage } } ∧
        u.FlushShut w) ∧
      (d.torque.toInt < l.tEngage → c.angle.toInt ≤ l.sMax →
        u = { w with closing := c, seq := { s.seq with record := s.seq.record.map measured } })

/-- A good sample in TIGHTEN (R81, R82): the security angle is recorded; T_final inside the angle band
seats the cap, below it is CROSS, above it SKIP; an angle past the band without T_final is SKIP. That the sent
view shows the command in force before HOLD or STOP is the model's choice of log 11. -/
def Obligations.TightenTest : Prop :=
  ∀ (s : State) (t : Time) (d : DriveSample) (l : ClosingLimits) (p : Half) (sub : SubPhase)
    (engage : BitVec 32),
    s.headRuns = true → sampleGood d = true → s.closing.phase = .tighten → s.closing.limits = some l →
    s.closing.prevAngle = some p → s.closing.engageAngle = some engage → s.seq.cycle = .closing sub →
    let w := s.enter t
    let c := (s.closing.afterGood t d).turned p d.torque d.angle
    let angle := (c.angle - engage).toInt
    let measured (r : Record) : Record :=
      { r with
        peakTorque := c.peak
        securityAngle := some (if angle < 0 then 0 else if 16384 < angle then 16384 else angle.toNat) }
    let ends (u : State) (v : CapVerdict) : Prop :=
      u.closing = c.ended ∧ u.FlushShut w ∧
      u.seq = { s.seq with
        cycle := .ended
        record := s.seq.record.map fun r =>
          { s.shutInto .abort (measured r) with capVerdict := some v } }
    let final := (l.tFinal : Int) ≤ d.torque.toInt
    ∃ u, exec (.driveSample t d) s = .next u ∧
      (final → angle < l.aMin → ends u .cross) ∧
      (final → (l.aMin : Int) ≤ angle → angle ≤ l.aMax → u = { w with
        closing := { c with
          phase := .dwell, slip := 0, command := .hold l.tFinal
          sent := [s.closing.command, .hold l.tFinal] }
        seq := { s.seq with cycle := .closing .dwell, record := s.seq.record.map measured } }) ∧
      (final → (l.aMin : Int) ≤ angle → (l.aMax : Int) < angle → ends u .skip) ∧
      (¬ final → (l.aMax : Int) < angle → ends u .skip) ∧
      (¬ final → angle ≤ l.aMax →
        u = { w with closing := c, seq := { s.seq with record := s.seq.record.map measured } })

/-- A good sample in DWELL (R83, R84): a torque below T_hold raises the slip count and the fourth in a row
is SLIPPED; one at or above T_hold sets the count to 0. That the sent view shows the command in force before
STOP is the model's choice of log 11. -/
def Obligations.DwellTest : Prop :=
  ∀ (s : State) (t : Time) (d : DriveSample) (l : ClosingLimits) (p : Half) (sub : SubPhase),
    s.headRuns = true → sampleGood d = true → s.closing.phase = .dwell → s.closing.limits = some l →
    s.closing.prevAngle = some p → s.seq.cycle = .closing sub → s.steam.flush ≠ .opened →
    let w := s.enter t
    let c := (s.closing.afterGood t d).turned p d.torque d.angle
    let measured (r : Record) : Record := { r with peakTorque := c.peak }
    let q := { s.seq with record := s.seq.record.map measured }
    let low := d.torque.toInt < l.tHold
    (low → s.closing.slip < 3 → exec (.driveSample t d) s = .next { w with
      closing := { c with slip := s.closing.slip + 1 }, seq := q }) ∧
    (low → 3 ≤ s.closing.slip → exec (.driveSample t d) s = .next { w with
      closing := c.ended
      seq := { s.seq with
        cycle := .ended
        record := s.seq.record.map fun r => { measured r with capVerdict := some .slipped } } }) ∧
    (¬ low → exec (.driveSample t d) s = .next { w with closing := { c with slip := 0 }, seq := q })

/-- A bad or a missing sample in a closing (R70, R75, R76): the first in a row is held, the last good values
being handled in its place with the held flag set; the second ends the closing with FEEDBACK_LOST and
leaves the angle alone. That the sent view shows the command in force, sent on the arrival, before STOP is the
model's choice of log 11. -/
def Obligations.BadSampleInAClosing : Prop :=
  ∀ (s : State) (t : Time) (sub : SubPhase) (torque : Torque) (angle : Half), s.headRuns = true →
    s.closing.phase.running = true → s.seq.cycle = .closing sub →
    s.closing.lastTorque = some torque → s.closing.lastAngle = some angle →
    let w := s.enter t
    let missed (u : State) (c : Closing) (timeouts : Count) : Prop :=
      let c1 := { c with badRun := min 2 (s.closing.badRun + 1), ready := false }
      let counted := { s.counters.head with
        badSamples := s.counters.head.badSamples + 1, driveTimeouts := timeouts }
      (s.closing.badRun = 0 →
        let held := State.unitHandles
          { w with closing := c1, counters := { s.counters with head := counted } } torque angle true
        u = held.1.takeReport held.2) ∧
      (1 ≤ s.closing.badRun →
        u.closing = c1.ended ∧ u.FlushShut w ∧
        u.counters.head.feedbackLosses = s.counters.head.feedbackLosses + 1 ∧
        u.counters.head.badSamples = counted.badSamples ∧
        u.counters.head.driveTimeouts = timeouts ∧
        u.seq = { s.seq with
          cycle := .ended
          record := s.seq.record.map fun r =>
            { s.shutInto .abort r with capVerdict := some .feedbackLost } })
    (∀ d, sampleGood d = false → ∃ u, exec (.driveSample t d) s = .next u ∧
      missed u { s.closing with deadline := t + 600#32, sent := [s.closing.command] }
        s.counters.head.driveTimeouts) ∧
    (0 ≤ since t s.closing.deadline → ∃ u, exec (.sampleDeadline t) s = .next u ∧
      missed u { s.closing with deadline := s.closing.deadline + 600#32, sent := [] }
        (s.counters.head.driveTimeouts + 1))

/-! ## Vacuum prediction (Chapter 5) -/

/-- The vapour pressure (R93): exact at the table points, between its neighbours in every interval,
non-decreasing over 0..1000, from 6 hPa at 0 °C to 1013 hPa at 100 °C. -/
def Obligations.VapourPressureLaw : Prop :=
  let vp := [6, 12, 23, 42, 74, 123, 199, 312, 474, 701, 1013]
  (∀ j, j ≤ 10 → vapourPressure (100 * j) = vp.getD j 0) ∧
  (∀ j f, j < 10 → f < 100 →
    vp.getD j 0 ≤ vapourPressure (100 * j + f) ∧ vapourPressure (100 * j + f) ≤ vp.getD (j + 1) 0) ∧
  (∀ t1 t2, t1 ≤ t2 → t2 ≤ 1000 → vapourPressure t1 ≤ vapourPressure t2) ∧
  vapourPressure 0 = 6 ∧ vapourPressure 1000 = 1013

/-- The predicted vacuum (R92, R94, R96 to R99, R101), for a purge table that R95 admits. The residual fraction
is the first point's up to the first point, the last point's from the last one on, each point's own at its dose,
and interpolated between two neighbours; the prediction goes from it through the dry pressure, the air at seal
and the cooled air to a value clamped to 0..P_amb. It never falls as the dose rises. -/
def Obligations.PredictedVacuumLaw : Prop :=
  ∀ (pAmb tCool t : Nat) (purge : List (Nat × Nat)), purgeOk purge = true → purge ≠ [] →
    let r := residualFraction purge
    let vp := [6, 12, 23, 42, 74, 123, 199, 312, 474, 701, 1013]
    let pv (t : Nat) : Nat :=
      let j := t / 100
      if j = 10 then 1013
      else vp.getD j 0 + ((vp.getD (j + 1) 0 - vp.getD j 0) * (t - 100 * j) + 50) / 100
    let dry := if pv t < pAmb then pAmb - pv t else 0
    let sealed (d : Nat) := (r d * dry + 512) / 1024
    let cooled (d : Nat) := (sealed d * (2732 + tCool) + (2732 + t) / 2) / (2732 + t)
    (∀ first d, purge.head? = some first → d ≤ first.1 → r d = first.2) ∧
    (∀ p ∈ purge, r p.1 = p.2) ∧
    (∀ front p q back d, purge = front ++ p :: q :: back → p.1 ≤ d → d < q.1 →
      r d = p.2 - ((p.2 - q.2) * (d - p.1) + (q.1 - p.1) / 2) / (q.1 - p.1)) ∧
    (t ≤ 1000 → tCool ≤ 400 → ∀ d,
      (predictedVacuum pAmb tCool purge t d : Int) =
        max 0 (min (pAmb : Int) ((pAmb : Int) - (cooled d : Int) - (pv tCool : Int)))) ∧
    (∀ d1 d2, d1 ≤ d2 → r d2 ≤ r d1) ∧
    (∀ d1 d2, d1 ≤ d2 →
      predictedVacuum pAmb tCool purge t d1 ≤ predictedVacuum pAmb tCool purge t d2) ∧
    (∀ last d, purge.getLast? = some last → last.1 ≤ d →
      r d = last.2 ∧
      predictedVacuum pAmb tCool purge t d = predictedVacuum pAmb tCool purge t last.1) ∧
    (∀ d, predictedVacuum pAmb tCool purge t d ≤ pAmb)

/-! ## The station link (Chapter 6) -/

/-- Frames agree both ways (R105, R106, R111 to R113, R120). Every notice a node can post, from every address, is
read back whole from the bits of its frame, which is 36 + 9L bits long and begins dominant. In a node with another
address that frame raises the received row of its kind with the fields it was formed from, and a STATE or REPORT
none; in the node with that address it is a duplicate address, whatever its kind. The spare bits of a SEAL are
ignored. A COMMAND frame (byte 0 the op, bytes 1 to 4 the mask, byte 5 the argument) raises the row of its op. A
frame that fails a test raises the receive error. -/
def Obligations.FrameRoundTrip : Prop :=
  ∀ (n : Notice) (a own : Address) (t : Time) (p : SealPayload) (bits : List Bool),
    let frame := frameAfterStart n.kind a n.payload
    readFrame frame = .valid n.kind a n.payload ∧
    frameBits a n = false :: frame ∧
    (frameBits a n).length = 36 + 9 * n.payload.length ∧
    (a = own → frameRow t own frame = some (.duplicateAddress t)) ∧
    (a ≠ own → frameRow t own frame =
      match n with
      | .steamOpen => some (.steamOpenReceived t a)
      | .steamShut => some (.steamShutReceived t a)
      | .valveFault f => some (.valveFaultReceived t a f.code)
      | .sealed q => some (.sealReceived t a q)
      | .void q => some (.voidReceived t a q)
      | .verdict q => some (.verdictReceived t a q)
      | .join q => some (.joinReceived t a q)
      | .state _ => none
      | .report _ _ _ _ _ => none) ∧
    (a ≠ own → ∀ spare : BitVec 2,
      frameRow t own (frameAfterStart 5 a ((sealBytes p).set 2 (p.bank ++ spare ++ p.capVerdict))) =
        some (.sealReceived t a p)) ∧
    (a ≠ own → ∀ op b1 b2 b3 b4 arg : Byte,
      let mask : BitVec 32 := b1 ++ b2 ++ b3 ++ b4
      let raised := frameRow t own (frameAfterStart 4 a [op, b1, b2, b3, b4, arg])
      commandPayload op mask arg = [op, b1, b2, b3, b4, arg] ∧
      (op = 1 → raised = some (.selectBank t a mask arg)) ∧
      (op = 2 → raised = some (.lock t a mask arg)) ∧
      (op = 3 → raised = some (.restore t a mask arg)) ∧
      (op = 4 → raised = some (.trimReset t a mask arg)) ∧
      (op = 5 → raised = some (.clearCounts t a mask arg)) ∧
      (op = 6 → raised = some (.report t a mask arg)) ∧
      (op = 7 → raised = some (.releaseStop t a mask arg)) ∧
      (op = 0 ∨ 7 < op.toNat → raised = some (.commandOpUnknown t a mask op arg))) ∧
    (∀ why, readFrame bits = .bad why → frameRow t own bits = some (.rxFrameError t bits))

/-- A frame on the wire (R107, R108, R110, R116, R118): an ACTIVE link with an idle line starts the frame of
its first entry; a lost contest keeps the notice and counts nothing, but removes a STEAM-SHUT that a STEAM-OPEN
offered during its frame has overtaken; a sent frame leaves the queue and clears the consecutive errors. A link
that is not ACTIVE starts none, and without a frame of its own on the wire nothing is lost or sent. -/
def Obligations.FrameStartsAndEnds : Prop :=
  ∀ (s : State) (t : Time),
    let w := s.enter t
    let q := s.link.queue
    let sending := ∃ e ∈ q, e.inFlight = true
    let overtaken := s.link.shutOvertaken = true ∧ ∃ e ∈ q, e.inFlight = true ∧ e.notice = .steamShut
    (∀ e rest, s.link.state = .active → s.link.mutePending = false → q = e :: rest →
      (∀ x ∈ q, x.inFlight = false) →
      exec (.frameStart t) s = .next { w with link := { s.link with
        queue := { e with inFlight := true } :: rest, wire := frameBits s.node.address e.notice
        shutOvertaken := false } }) ∧
    (s.link.mutePending = false → s.link.state ≠ .active ∨ q = [] ∨ sending →
      exec (.frameStart t) s = .next w) ∧
    (s.link.state = .active → sending →
      exec (.contestLost t) s = .next { w with link := { s.link with
        queue := if overtaken then q.filter fun e => !e.inFlight
          else q.map fun e => { e with inFlight := false }
        wire := [], shutOvertaken := false } } ∧
      ((∀ e ∈ q, e.inFlight = true → ∀ p a b c d, e.notice ≠ .report p a b c d) →
        exec (.frameSent t) s = .next { w with link := { s.link with
          queue := q.filter (fun e => !e.inFlight), wire := [], shutOvertaken := false, errors := 0 } })) ∧
    (s.link.state ≠ .active ∨ ¬ sending →
      exec (.contestLost t) s = .next w ∧ exec (.frameSent t) s = .next w)

/-- Transmit errors (R109, R114, R118, R181): without a frame of the node's own on the wire there is none;
else the notice goes back to the queue, or is removed if it is a STEAM-SHUT that a STEAM-OPEN has overtaken,
and below sixteen in a row that is all. The sixteenth makes the link MUTE, at once when nothing else is on the
wire, else when the frame there has ended (model's choice, log 15): at the next idle line, or with a frame
received or discarded, which is first taken as ever. That clear pending stands when MUTE ends a report is log 27. -/
def Obligations.TransmitErrorsMute : Prop :=
  ∀ (s : State) (t : Time),
    let w := s.enter t
    let q := s.link.queue
    let sending := ∃ e ∈ q, e.inFlight = true
    let overtaken := s.link.shutOvertaken = true ∧ ∃ e ∈ q, e.inFlight = true ∧ e.notice = .steamShut
    let failed : State := { w with
      link := { s.link with
        queue := if overtaken then q.filter fun e => !e.inFlight
          else q.map fun e => { e with inFlight := false }
        wire := [], shutOvertaken := false, errors := min 16 (s.link.errors + 1) }
      counters := { s.counters with
        link := { s.counters.link with txErrors := s.counters.link.txErrors + 1 } } }
    (∀ busy, s.link.state ≠ .active ∨ ¬ sending → exec (.transmitError t busy) s = .next w) ∧
    (∀ busy, s.link.state = .active → sending → s.link.errors < 15 →
      exec (.transmitError t busy) s = .next failed) ∧
    (s.link.state = .active → sending → 15 ≤ s.link.errors →
      exec (.transmitError t false) s = .next failed.muted ∧
      exec (.transmitError t true) s =
        .next { failed with link := { failed.link with mutePending := true } }) ∧
    (s.link.mutePending = true → exec (.frameStart t) s = .next w.muted) ∧
    (∀ c : Instr, endsFrame c → s.link.mutePending = true → s.link.state = .active →
      ∃ v, exec c s.unmuted = .next v ∧
        (v.link.state = .active → exec c s = .next v.muted) ∧
        (v.link.state ≠ .active → exec c s = .next v))

/-- Reception (R111, R113, R114, R115, R181): a frame that fails a test is counted once, in ACTIVE and in MUTE;
a valid frame with the node's own address mutes an ACTIVE link at once and changes nothing in MUTE; in
STARTING and OFF neither of these, nor a STEAM-OPEN or VALVE-FAULT received, changes anything. That clear
pending stands when MUTE ends a report is log 27. -/
def Obligations.ReceptionFaults : Prop :=
  ∀ (s : State) (t : Time) (bits : List Bool),
    let w := s.enter t
    let hears := s.link.state = .active ∨ s.link.state = .mute
    (∀ why, hears → s.link.mutePending = false → readFrame bits = .bad why →
      exec (.rxFrameError t bits) s = .next { w with
        counters := { s.counters with
          link := { s.counters.link with rxErrors := s.counters.link.rxErrors + 1 } } }) ∧
    (∀ k a p, readFrame bits = .valid k a p → exec (.rxFrameError t bits) s = .next w) ∧
    (s.link.state = .active → exec (.duplicateAddress t) s = .next w.muted) ∧
    (s.link.state = .mute → s.link.mutePending = false → exec (.duplicateAddress t) s = .next w) ∧
    (¬ hears → exec (.rxFrameError t bits) s = .next w ∧ exec (.duplicateAddress t) s = .next w ∧
      ∀ a f, exec (.steamOpenReceived t a) s = .next w ∧ exec (.valveFaultReceived t a f) s = .next w)

/-- The transmit queue (R114 to R118): a notice takes its place by kind; a full queue gives up the youngest
waiting entry of the largest kind above the newcomer's, or drops the newcomer; a STEAM-SHUT takes out a
STEAM-OPEN; a STEAM-OPEN takes out a waiting STEAM-SHUT and is remembered against one in flight, until its frame
is over; outside ACTIVE a notice is dropped and counted. -/
def Obligations.NoticeTakesItsPlace : Prop :=
  ∀ (s : State) (n : Notice), s.link.ok →
    let q := s.link.queue
    let u := s.offer n
    let new : QueueEntry := ⟨n, false⟩
    let placed (into out : List QueueEntry) : Prop :=
      ∃ front back, into = front ++ back ∧ out = front ++ new :: back ∧
        (∀ e ∈ front, e.notice.kind ≤ n.kind) ∧ (∀ e ∈ back, n.kind < e.notice.kind)
    let dropped := s.counters.link.txDropped + 1
    (s.link.state ≠ .active → u = { s with counters := { s.counters with
      link := { s.counters.link with linkDropped := s.counters.link.linkDropped + 1 } } }) ∧
    (s.link.state = .active → n = .steamShut → (∃ e ∈ q, e.notice = .steamOpen) →
      u.link.queue = (q.filter fun e => e.notice ≠ .steamOpen) ∧ u.counters = s.counters) ∧
    (s.link.state = .active → n = .steamOpen →
      (∃ e ∈ q, e.inFlight = false ∧ e.notice = .steamShut) →
      placed (q.filter fun e => e.inFlight = true ∨ e.notice ≠ .steamShut) u.link.queue ∧
      u.counters = s.counters) ∧
    (s.link.state = .active → (∃ e ∈ q, e.inFlight = true ∧ e.notice = .steamShut) →
      u.link.shutOvertaken = (s.link.shutOvertaken || decide (n = .steamOpen))) ∧
    (s.link.state = .active → (n = .steamShut → ∀ e ∈ q, e.notice ≠ .steamOpen) →
      (n = .steamOpen → ∀ e ∈ q, e.inFlight = true ∨ e.notice ≠ .steamShut) →
      (q.length < 8 → placed q u.link.queue ∧ u.counters = s.counters) ∧
      (8 ≤ q.length → (∀ e ∈ q, e.inFlight = false → e.notice.kind ≤ n.kind) →
        u.link.queue = q ∧ u.counters.link.txDropped = dropped) ∧
      (∀ front gone back, 8 ≤ q.length → q = front ++ gone :: back → gone.inFlight = false →
        n.kind < gone.notice.kind →
        (∀ e ∈ q, e.inFlight = false → e.notice.kind ≤ gone.notice.kind) →
        (∀ e ∈ back, e.inFlight = false → e.notice.kind < gone.notice.kind) →
        placed (front ++ back) u.link.queue ∧ u.counters.link.txDropped = dropped))

/-! ## Verdict return and dose trim (Chapter 7) -/

/-- A VERDICT at a head (R124, R125, R127 to R131): who is heard, the match by revolution with every older
entry given up, and what a low and a good result do to the trim, the good-run count and the degraded flag
of the entry's bank. -/
def Obligations.VerdictAnswers : Prop :=
  ∀ (s : State) (t : Time) (p : VerdictPayload), s.headRuns = true →
    s.link.state = .active ∨ s.link.state = .mute → s.link.mutePending = false →
    s.node.address ≠ 24#5 → p.head.toNat = s.own →
    let w := s.enter t
    let v := s.verdicts
    let c := s.counters.head
    let e := exec (.verdictReceived t 24#5 p) s
    (∀ a, a ≠ 24#5 → a ≠ s.node.address → exec (.verdictReceived t a p) s = .next w) ∧
    (∀ q : VerdictPayload, q.head.toNat ≠ s.own → exec (.verdictReceived t 24#5 q) s = .next w) ∧
    (p.revolution ∉ v.awaited.map (·.revolution) → e = .next { w with
      counters := { s.counters with head := { c with verdictsUnmatched := c.verdictsUnmatched + 1 } } }) ∧
    (∀ older x newer, v.awaited = older ++ x :: newer → x.revolution = p.revolution →
      p.revolution ∉ older.map (·.revolution) →
      let b := x.bank
      let bank := s.bankOf b
      let trim := v.trims.get b
      let run := v.goodRun.get b
      let counts := x.capVerdict = .good ∧ p.vMeas ≠ 65535#16 ∧ p.code.toNat ≤ 4 ∧ 0 < x.dose ∧
        ∃ y, x.vPred = some y ∧ 0 < y
      let low := p.vMeas.toNat < bank.vMin + bank.trimMargin
      let lowered := max 0 (trim - bank.trimStep)
      let recovers := lowered < bank.trimMax ∧ v.degraded.get b = true
      let after (v1 : VerdictList) : State := { w with
        verdicts := { v1 with awaited := newer }
        counters := { s.counters with head := { c with
          verdictsUnanswered := c.verdictsUnanswered + BitVec.ofNat 32 older.length } } }
      (¬ counts → e = .next (after v)) ∧
      (counts → low → trim ≠ bank.trimMax → e = .next (after { v with
        trims := v.trims.set b (min bank.trimMax (trim + bank.trimStep))
        goodRun := v.goodRun.set b 0 })) ∧
      (counts → low → trim = bank.trimMax → v.degraded.get b = true →
        e = .next (after { v with goodRun := v.goodRun.set b 0 })) ∧
      (counts → low → trim = bank.trimMax → v.degraded.get b = false →
        e = .next ((after { v with
          goodRun := v.goodRun.set b 0, degraded := v.degraded.set b true }).offer
          (.state (.degraded b)))) ∧
      (counts → ¬ low → run < 7 → e = .next (after { v with goodRun := v.goodRun.set b (run + 1) })) ∧
      (counts → ¬ low → 7 ≤ run → ¬ recovers → e = .next (after { v with
        goodRun := v.goodRun.set b 0, trims := v.trims.set b lowered })) ∧
      (counts → ¬ low → 7 ≤ run → recovers → e = .next ((after { v with
        goodRun := v.goodRun.set b 0, trims := v.trims.set b lowered
        degraded := v.degraded.set b false }).offer (.state (.recovered b)))))

/-- The check node's JOIN at a head (R126): every awaited seal is given up and counted; trims, good-run
counts and degraded flags stay. A JOIN from any other address leaves the verdict list alone. -/
def Obligations.CheckJoinForgetsAwaited : Prop :=
  ∀ (s : State) (t : Time) (join : JoinPayload), s.headRuns = true →
    s.link.state = .active ∨ s.link.state = .mute → s.link.mutePending = false →
    s.node.address ≠ 24#5 →
    let heard (p : Nat) := { s.steam with
      roster := s.steam.roster.map fun e => if e.peer = p then { e with state := .closed } else e }
    exec (.joinReceived t 24#5 join) s = .next { s.enter t with
      steam := heard 24
      verdicts := { s.verdicts with awaited := [] }
      counters := { s.counters with head := { s.counters.head with
        verdictsUnanswered := s.counters.head.verdictsUnanswered +
          BitVec.ofNat 32 s.verdicts.awaited.length } } } ∧
    (∀ a, a ≠ 24#5 → a ≠ s.node.address →
      exec (.joinReceived t a join) s = .next { s.enter t with steam := heard a.toNat })

/-! ## Jar transit (Chapter 8) -/

/-- A SEAL or VOID at the check node (R137 to R144): duplicates, the gaps and the order faults reckoned from
the next expected pocket, the expected position, and a full list, which drops and counts each entry in
turn; and a JOIN, which forgets the sender's last revolution. -/
def Obligations.RecordsJoinTheList : Prop :=
  ∀ (s : State) (t : Time) (a : Address) (x : SealPayload) (y : VoidPayload) (join : JoinPayload),
    s.checkRuns = true → s.link.state = .active ∨ s.link.state = .mute → s.link.mutePending = false →
    a ≠ s.node.address →
    let w := s.enter t
    let tr := s.transit
    let n := s.config.header.n
    let p := a.toNat
    let c := s.counters.check
    let exp := tr.position + BitVec.ofNat 32 s.config.header.dTravel
    (n ≤ p → exec (.sealReceived t a x) s = .next w ∧ exec (.voidReceived t a y) s = .next w ∧
      exec (.joinReceived t a join) s = .next w) ∧
    (p < n → exec (.joinReceived t a join) s = .next { w with
      transit := { tr with lastRev := tr.lastRev.set p none } }) ∧
    (∀ take revolution entry, p < n →
      (take = Instr.sealReceived t a x ∧ revolution = x.revolution ∧ entry = TransitEntry.sealed
        { head := p, revolution := x.revolution, capVerdict := x.capVerdict, vPred := x.vPred.toNat
          bank := x.bank, sigMatch := decide (x.signature = s.config.signature) } exp) ∨
      (take = Instr.voidReceived t a y ∧ revolution = y.revolution ∧
        entry = TransitEntry.void p y.revolution exp) →
      (tr.lastRev.getD p none = some revolution → exec take s = .next { w with
        counters := { s.counters with check := { c with duplicates := c.duplicates + 1 } } }) ∧
      (tr.lastRev.getD p none ≠ some revolution →
        ∃ (gaps : List TransitEntry) (fault : Bool),
          (tr.nextPocket = none → gaps = [] ∧ fault = false) ∧
          (∀ e, tr.nextPocket = some e →
            let m := (p + n - e) % n
            (m = 0 → gaps = [] ∧ fault = false) ∧
            (1 ≤ m → m ≤ n / 2 → fault = false ∧
              gaps = (List.range m).map fun i => TransitEntry.gap ((e + i) % n) exp) ∧
            (n / 2 < m → gaps = [] ∧ fault = true)) ∧
          let new := gaps ++ [entry]
          let room := 512 - tr.entries.length
          exec take s = .next { w with
            transit := { tr with
              entries := tr.entries ++ new.take room
              nextPocket := some ((p + 1) % n)
              lastRev := tr.lastRev.set p (some revolution) }
            counters := { s.counters with check := { c with
              gapsInserted := c.gapsInserted + BitVec.ofNat 32 gaps.length
              orderFaults := if fault then c.orderFaults + 1 else c.orderFaults
              transitOverflows := c.transitOverflows + BitVec.ofNat 32 (new.length - room) } } }))

/-- The conveyor and the windows (R136, R145, R146, R147): a forward count moves the position by one, a
backward count nothing; the entries in front whose windows have been passed leave the list, a SEAL with a
VERDICT MISSING, and the rest stay. That the advance closes no window itself and TRANSIT_WINDOW_CLOSE does is
the model's reading, log 22. -/
def Obligations.ConveyorAndWindows : Prop :=
  ∀ (s : State) (t : Time), s.checkRuns = true →
    let w := s.enter t
    let c := s.counters.check
    let past (e : TransitEntry) :=
      1 ≤ since s.transit.position (e.expected + BitVec.ofNat 32 s.config.header.w)
    exec (.conveyorAdvance t false) s = .next { w with
      transit := { s.transit with position := s.transit.position + 1 } } ∧
    exec (.conveyorAdvance t true) s = .next w ∧
    (∀ closed rest, s.transit.entries = closed ++ rest → (∀ e ∈ closed, past e) →
      (∀ e, rest.head? = some e → ¬ past e) →
      let voids := closed.countP TransitEntry.isVoid
      let gaps := closed.countP TransitEntry.isGap
      let missing := closed.filterMap TransitEntry.missing
      ∃ u, exec (.transitWindowClose t) s = .next u ∧
        u.transit = { s.transit with entries := rest } ∧
        u.counters.check = { c with
          voidsRetired := c.voidsRetired + BitVec.ofNat 32 voids
          gapsEmpty := c.gapsEmpty + BitVec.ofNat 32 gaps
          missingSeals := c.missingSeals + BitVec.ofNat 32 missing.length } ∧
        u.config.lifetime = { s.config.lifetime with
          three := s.config.lifetime.three + BitVec.ofNat 32 missing.length } ∧
        u.link = (missing.foldl State.offer w).link ∧
        u.reject = s.reject ∧ u.node = s.node ∧ u.pins = s.pins ∧ u.memory = s.memory)

/-- A jar edge (R148, R149, R150, R151, R157, R158), the passed windows closed: before the front window, in
a VOID's, and on an empty list the jar is a stray; in the window of a SEAL or GAP it is a match, held in
the reading slot. The slot is settled first in every case. -/
def Obligations.JarArrives : Prop :=
  ∀ (s : State) (t : Time), s.checkRuns = true →
    let pos := s.transit.position
    let half := BitVec.ofNat 32 s.config.header.w
    (∀ e, s.transit.entries.head? = some e → ¬ 1 ≤ since pos (e.expected + half)) →
    let w := { s.enter t with
      config := { s.config with
        lifetime := { s.config.lifetime with one := s.config.lifetime.one + 1 } } }
    let taken (rest : List TransitEntry) : State := { w with
      transit := { s.transit with entries := rest } }
    let stray (u from1 : State) : Prop := ∃ v : State, v.Settled { from1 with counters := { s.counters with
        check := { s.counters.check with strays := s.counters.check.strays + 1 } } } ∧
      u.Rejected { v with reject := { v.reject with slot := .stray pos } } pos
    let matched (u from1 : State) (m : Matched) : Prop :=
      ∃ v : State, v.Settled from1 ∧ u = { v with reject := { v.reject with slot := .held m pos } }
    ∃ u, exec (.jarEdge t) s = .next u ∧
      (s.transit.entries = [] → stray u w) ∧
      (∀ e rest, s.transit.entries = e :: rest →
        let before := since pos (e.expected - half) < 0
        (before → stray u w) ∧
        (¬ before → ∀ h r x, e = .void h r x → stray u (taken rest)) ∧
        (¬ before → ∀ m x, e = .sealed m x → matched u (taken rest) (.sealed m x)) ∧
        (¬ before → ∀ h x, e = .gap h x → matched u (taken rest) (.gap h x)))

/-! ## Inspection and rejection (Chapter 9) -/

/-- Readings and reading windows (R159 to R165): an OK reading ends the no-reading run and the fallback;
then a HELD entry is judged with the reading, a STRAY absorbs it, and an EMPTY slot counts it. A reading
window that has closed settles the slot without one. -/
def Obligations.ReadingsJudge : Prop :=
  ∀ (s : State) (t : Time) (r : SensorReading), s.checkRuns = true →
    let w := s.enter t
    let reads := { w with reject := { s.reject with noReading := 0, fallback := false } }
    let heard :=
      if r.ok = false then w
      else if s.reject.fallback then reads.offer (.state .sensorOk) else reads
    let cleared (a : State) : State := { a with reject := { a.reject with slot := .empty } }
    let due (x : Position) :=
      0 ≤ since s.transit.position (x + BitVec.ofNat 32 s.config.header.rRead)
    (s.reject.slot = .empty →
      exec (.panelReading t r) s = .next { heard with counters := { heard.counters with
        check := { heard.counters.check with
          orphanReadings := heard.counters.check.orphanReadings + 1 } } } ∧
      exec (.readingWindowClose t) s = .next w) ∧
    (∀ x, s.reject.slot = .stray x →
      exec (.panelReading t r) s = .next (cleared heard) ∧
      (due x → exec (.readingWindowClose t) s = .next (cleared w)) ∧
      (¬ due x → exec (.readingWindowClose t) s = .next w)) ∧
    (∀ e x, s.reject.slot = .held e x →
      (∃ u, exec (.panelReading t r) s = .next u ∧ u.Judged (cleared heard) e x (some r)) ∧
      (due x → ∃ u, exec (.readingWindowClose t) s = .next u ∧ u.Judged (cleared w) e x none) ∧
      (¬ due x → exec (.readingWindowClose t) s = .next w))

/-- The gate (R167, R168): the front entries whose gate positions the conveyor has reached leave the queue
with one pulse from now; the output is negated when the pulse end is reached, and not before. -/
def Obligations.GatePulses : Prop :=
  ∀ (s : State) (t : Time), s.checkRuns = true →
    let w := s.enter t
    let due (g : Position) := 0 ≤ since s.transit.position g
    (∀ gone rest, s.reject.queue = gone ++ rest → (∀ g ∈ gone, due g) →
      (∀ g, rest.head? = some g → ¬ due g) →
      (gone = [] → exec (.gatePositionReached t) s = .next w) ∧
      (gone ≠ [] → exec (.gatePositionReached t) s = .next { w with reject := { s.reject with
        queue := rest, output := true
        pulseEnd := some (t + BitVec.ofNat 32 (s.config.header.pulseMs * 1000)) } })) ∧
    (s.reject.pulseEnd = none → exec (.rejectPulseEnd t) s = .next w) ∧
    (∀ e, s.reject.pulseEnd = some e →
      (0 ≤ since t e → exec (.rejectPulseEnd t) s = .next { w with
        reject := { s.reject with output := false, pulseEnd := none } }) ∧
      (¬ 0 ≤ since t e → exec (.rejectPulseEnd t) s = .next w))

/-! ## Commands and reports (Chapter 10) -/

/-- The tests of a COMMAND in their order (R177): the sender, the mask, the node state, the op and its
argument. A refusal is counted and changes nothing else; a command for other nodes, and one of a line controller
from the power warning on, is not counted. The first clause holds in every node state: that a command of any other
sender is counted as refused in SAVED and in START too is the model's reading (log 18). -/
def Obligations.CommandTests : Prop :=
  ∀ (s : State) (t : Time) (sender : Address) (mask : BitVec 32) (op arg : Byte) (c : Instr),
    s.delivers sender →
    (op, c) ∈ [(1, Instr.selectBank t sender mask arg), (2, .lock t sender mask arg),
      (3, .restore t sender mask arg), (4, .trimReset t sender mask arg),
      (5, .clearCounts t sender mask arg), (6, .report t sender mask arg),
      (7, .releaseStop t sender mask arg)] ∨ c = .commandOpUnknown t sender mask op arg →
    let w := s.enter t
    let named := mask.getLsbD s.node.address.toNat = true
    (sender ≠ 30#5 → sender ≠ 31#5 → exec c s = .next w.refused) ∧
    (sender = 30#5 ∨ sender = 31#5 →
      (¬ named → exec c s = .next w) ∧
      (named → s.node.mode = .saved ∨ s.node.mode = .start → exec c s = .next w) ∧
      (named → s.node.mode = .halted → op ≠ 6 → exec c s = .next w.refused) ∧
      (named → s.node.mode = .operating →
        op = 0 ∨ 7 < op.toNat ∨ (op = 1 ∧ 3 < arg.toNat) ∨ (op = 6 ∧ 2 < arg.toNat) →
        exec c s = .next w.refused) ∧
      (named → s.node.mode = .halted → op = 6 → 2 < arg.toNat → exec c s = .next w.refused))

/-- What the addressed ops do in OPERATING (R43, R44, R132, R170, R178): the head's bank, lock action and
trims, the check node's stop latch; each op of the other role is refused. -/
def Obligations.OpsByRole : Prop :=
  ∀ (s : State) (t : Time) (sender : Address) (mask : BitVec 32) (arg : Byte),
    s.addressed sender mask → s.node.mode = .operating →
    let w := s.enter t
    let pends (a : LockAction) : Host.Outcome State Fault Refusal :=
      .next { w with seq := { s.seq with pendingLock := a } }
    let degraded := [0#2, 1#2, 2#2, 3#2].filter fun b => s.verdicts.degraded.get b
    (s.node.role = .head →
      (∀ b : BankId, arg = BitVec.ofNat 8 b.toNat →
        exec (.selectBank t sender mask arg) s =
          if s.config.usable.get b then .next { w with seq := { s.seq with pendingBank := some b } }
          else .next w.refused) ∧
      exec (.lock t sender mask arg) s = pends .lock ∧
      exec (.restore t sender mask arg) s =
        pends (if s.seq.pendingLock = .lock then .none else .restore) ∧
      exec (.trimReset t sender mask arg) s = .next
        ((degraded.map fun b => Notice.state (.recovered b)).foldl State.offer { w with
          verdicts := { s.verdicts with
            trims := ⟨0, 0, 0, 0⟩, goodRun := ⟨0, 0, 0, 0⟩
            degraded := ⟨false, false, false, false⟩ } }) ∧
      exec (.releaseStop t sender mask arg) s = .next w.refused) ∧
    (s.node.role = .check →
      exec (.selectBank t sender mask arg) s = .next w.refused ∧
      exec (.lock t sender mask arg) s = .next w.refused ∧
      exec (.restore t sender mask arg) s = .next w.refused ∧
      exec (.trimReset t sender mask arg) s = .next w.refused ∧
      (s.reject.stop = false → exec (.releaseStop t sender mask arg) s = .next w.refused) ∧
      (s.reject.stop = true → exec (.releaseStop t sender mask arg) s = .next
        (({ w with reject := { s.reject with stop := false, consecutive := 0 } } : State).offer
          (.state .stopReleased))))

/-- Counts and reports (R179, R180, R181): CLEAR_COUNTS; a REPORT refused while one is outstanding, or
its pages offered from one snapshot, those without room lost; a page sent that is not the last; the last page
sent, page 5 among them, with or without its clear, which the power warning withholds; and a page displaced by
a notice of lower kind (R117). That clear pending and pages lost stand as they are when a report has ended is the
model's reading, log 27. The pages that MUTE removes are in `TransmitErrorsMute`. -/
def Obligations.CountsAndReports : Prop :=
  (∀ (s : State) (t : Time) (sender : Address) (mask : BitVec 32) (arg : Byte),
    s.addressed sender mask → s.node.mode = .operating ∨ s.node.mode = .halted →
    let w := s.enter t
    let live := s.counters.live s.node.role
    let l := s.config.lifetime
    let page (i : Nat) : Notice :=
      if arg = 2 then .report 5 l.one l.two l.three l.four
      else .report i (live.getD (4 * i) 0) (live.getD (4 * i + 1) 0) (live.getD (4 * i + 2) 0)
        (live.getD (4 * i + 3) 0)
    let pages := if arg = 2 then [page 5] else [page 0, page 1, page 2, page 3, page 4]
    let taken := if s.link.state = .active then min pages.length (8 - s.link.queue.length) else 0
    let lost := BitVec.ofNat 32 (pages.length - taken)
    let c := s.counters.link
    (s.node.mode = .operating → exec (.clearCounts t sender mask arg) s = .next { w with
      counters := Counters.zero
      config := { s.config with
        clearPending := if s.config.reportOutstanding then false else s.config.clearPending } }) ∧
    (arg.toNat ≤ 2 → s.config.reportOutstanding = true →
      exec (.report t sender mask arg) s = .next w.refused) ∧
    (arg.toNat ≤ 2 → s.config.reportOutstanding = false →
      exec (.report t sender mask arg) s = .next { w with
        link := { s.link with
          queue := s.link.queue ++ (pages.take taken).map fun n => (⟨n, false⟩ : QueueEntry)
          wire := if taken = 0 ∨ ∃ e ∈ s.link.queue, e.inFlight = true then s.link.wire else []
          shutOvertaken := s.link.shutOvertaken &&
            decide (taken = 0 ∨ ∃ e ∈ s.link.queue, e.inFlight = true) }
        counters := { s.counters with
          link := if s.link.state = .active then { c with txDropped := c.txDropped + lost }
            else { c with linkDropped := c.linkDropped + lost } }
        config := { s.config with
          reportOutstanding := decide (0 < taken), clearPending := decide (arg = 1)
          snapshot := if taken = 0 then none
            else some (if arg = 2 then [l.one, l.two, l.three, l.four] else live)
          pagesInQueue := taken, pagesLost := decide (taken < pages.length) } })) ∧
  (∀ (s : State) (t : Time) (front back : List QueueEntry) (page : QueueEntry) (snap : List Count),
    s.link.state = .active → s.config.reportOutstanding = true → s.config.snapshot = some snap →
    s.link.queue = front ++ page :: back → page.isPage = true → page.inFlight = true →
    (∀ e ∈ front ++ back, e.inFlight = false) →
    let sent : State := { s.enter t with link := { s.link with
      queue := front ++ back, wire := [], shutOvertaken := false, errors := 0 } }
    let ended : State := { sent with config := { s.config with
      reportOutstanding := false, snapshot := none, pagesInQueue := 0 } }
    let clears := s.config.clearPending = true ∧ s.config.pagesLost = false ∧ s.node.mode ≠ .saved
    (1 < s.config.pagesInQueue → exec (.frameSent t) s = .next { sent with config := { s.config with
      pagesInQueue := s.config.pagesInQueue - 1 } }) ∧
    (s.config.pagesInQueue = 1 → ¬ clears → exec (.frameSent t) s = .next ended) ∧
    (s.config.pagesInQueue = 1 → clears → snap.length = 20 →
      ∃ u, exec (.frameSent t) s = .next u ∧ u = { ended with counters := u.counters } ∧
        u.counters.live s.node.role =
          List.zipWith (fun a b => a - b) (s.counters.live s.node.role) snap)) ∧
  (∀ (s : State) (n : Notice) (front back : List QueueEntry) (page : QueueEntry),
    s.link.state = .active → s.config.reportOutstanding = true → 8 ≤ s.link.queue.length →
    s.link.queue = front ++ page :: back → page.isPage = true → page.inFlight = false →
    (∀ e ∈ back, e.isPage = true → e.inFlight = true) → n.kind < 10 →
    (n = .steamShut → ∀ e ∈ s.link.queue, e.notice ≠ .steamOpen) →
    (n = .steamOpen → ∀ e ∈ s.link.queue, e.inFlight = true ∨ e.notice ≠ .steamShut) →
    (s.offer n).config = s.config.pagesLeave 1 ∧
    (s.offer n).counters = { s.counters with
      link := { s.counters.link with txDropped := s.counters.link.txDropped + 1 } } ∧
    ∀ e ∈ (s.offer n).link.queue, e.notice = n ∨ e ∈ front ++ back)

/-! ## Lamp and laws of every step (Chapter 11) -/

/-- The lamp (R188): lit while the node is HALTED, the link MUTE or OFF, a head's self-lock true or the
check node's latch set, dark while none holds; dark after a reset but for an address of 30 or 31; and
darkened by the release of the latch when nothing else holds. -/
def Obligations.LampFollows : Prop :=
  (∀ s : State, s.lamp = true ↔
    s.node.mode = .halted ∨ s.link.state = .mute ∨ s.link.state = .off ∨ s.seq.selfLock = true ∨
      s.reject.stop = true) ∧
  (∀ (s : State) (inp : StartInputs) (cut : Nat), s.pins.pwarn = false → inp.crystalReady = false →
    ∃ u, exec (.resetLine inp cut) s = .next u ∧
      (u.lamp = true ↔ inp.addr = 30#5 ∨ inp.addr = 31#5)) ∧
  (∀ (s : State) (t : Time) (sender : Address) (mask : BitVec 32) (arg : Byte),
    s.addressed sender mask → s.node.mode = .operating → s.node.role = .check →
    s.reject.stop = true → s.seq.selfLock = false → s.link.state = .active →
    s.lamp = true ∧ ∃ u, exec (.releaseStop t sender mask arg) s = .next u ∧ u.lamp = false)

/-- Every step keeps the configuration memory canonical and a running save within it (10.1, R186). -/
def Obligations.MemoryKept : Prop :=
  ∀ s u : State, s.memoryOk → step s = .next u → u.memoryOk

/-- Every step keeps the transmit queue as R104 and R114 to R118 leave it: at most eight notices in order of
kind, one in flight at most, no STEAM-OPEN beside a waiting STEAM-SHUT, none outside ACTIVE. -/
def Obligations.TransmitQueueKept : Prop :=
  ∀ s u : State, s.linkOk → step s = .next u → u.linkOk

/-- Every step keeps the law of the valve and the dose (R31, R45, R53, R54, R58, R59, R63, R67): commanded
open only in OPENING and OPEN, those only in an open flush of a cycle at work, the ticks below T, the dose
under T plus Qn; and on a head that takes no events the valve is commanded shut. -/
def Obligations.ValveLawKept : Prop :=
  ∀ s u : State, s.steamOk → step s = .next u → u.steamOk

/-- Every step keeps the drive command of each closing state (R72), the pitch estimate in its range (R7),
the verdict list within 32 seals of different revolutions (R123), the trims within trim max (R122), and the
transit list, the reject queue and the held counts within their sizes (R144, R163, R165, R166). -/
def Obligations.BoundsKept : Prop :=
  ∀ s u : State, s.boundsOk → step s = .next u → u.boundsOk

/-- The state after reset obeys the laws that every step keeps. Where the spec gives no value at reset, what
State.reset holds is the model's choice (log 7, log 8). -/
def Obligations.ResetObeysTheLaws : Prop :=
  State.reset.memoryOk ∧ State.reset.linkOk ∧ State.reset.steamOk ∧ State.reset.boundsOk
end

