-- ==== Sys2Proof/Laws/State.lean ====
section
/-! SUPPORT. What each update of the state leaves and changes: one lemma per field per update, each true by
`rfl`. -/

namespace Sys2Proof.Machine

/-! ### withPins -/

@[simp] theorem State.withPins_pending (s : State) (x : Pins) : (s.withPins x).pending = s.pending := rfl
@[simp] theorem State.withPins_timeBase (s : State) (x : Pins) : (s.withPins x).timeBase = s.timeBase := rfl
@[simp] theorem State.withPins_pins (s : State) (x : Pins) : (s.withPins x).pins = x := rfl
@[simp] theorem State.withPins_node (s : State) (x : Pins) : (s.withPins x).node = s.node := rfl
@[simp] theorem State.withPins_memory (s : State) (x : Pins) : (s.withPins x).memory = s.memory := rfl
@[simp] theorem State.withPins_config (s : State) (x : Pins) : (s.withPins x).config = s.config := rfl
@[simp] theorem State.withPins_counters (s : State) (x : Pins) : (s.withPins x).counters = s.counters := rfl
@[simp] theorem State.withPins_tracker (s : State) (x : Pins) : (s.withPins x).tracker = s.tracker := rfl
@[simp] theorem State.withPins_seq (s : State) (x : Pins) : (s.withPins x).seq = s.seq := rfl
@[simp] theorem State.withPins_steam (s : State) (x : Pins) : (s.withPins x).steam = s.steam := rfl
@[simp] theorem State.withPins_closing (s : State) (x : Pins) : (s.withPins x).closing = s.closing := rfl
@[simp] theorem State.withPins_verdicts (s : State) (x : Pins) : (s.withPins x).verdicts = s.verdicts := rfl
@[simp] theorem State.withPins_link (s : State) (x : Pins) : (s.withPins x).link = s.link := rfl
@[simp] theorem State.withPins_transit (s : State) (x : Pins) : (s.withPins x).transit = s.transit := rfl
@[simp] theorem State.withPins_reject (s : State) (x : Pins) : (s.withPins x).reject = s.reject := rfl

/-! ### withNode -/

@[simp] theorem State.withNode_pending (s : State) (x : Node) : (s.withNode x).pending = s.pending := rfl
@[simp] theorem State.withNode_timeBase (s : State) (x : Node) : (s.withNode x).timeBase = s.timeBase := rfl
@[simp] theorem State.withNode_pins (s : State) (x : Node) : (s.withNode x).pins = s.pins := rfl
@[simp] theorem State.withNode_node (s : State) (x : Node) : (s.withNode x).node = x := rfl
@[simp] theorem State.withNode_memory (s : State) (x : Node) : (s.withNode x).memory = s.memory := rfl
@[simp] theorem State.withNode_config (s : State) (x : Node) : (s.withNode x).config = s.config := rfl
@[simp] theorem State.withNode_counters (s : State) (x : Node) : (s.withNode x).counters = s.counters := rfl
@[simp] theorem State.withNode_tracker (s : State) (x : Node) : (s.withNode x).tracker = s.tracker := rfl
@[simp] theorem State.withNode_seq (s : State) (x : Node) : (s.withNode x).seq = s.seq := rfl
@[simp] theorem State.withNode_steam (s : State) (x : Node) : (s.withNode x).steam = s.steam := rfl
@[simp] theorem State.withNode_closing (s : State) (x : Node) : (s.withNode x).closing = s.closing := rfl
@[simp] theorem State.withNode_verdicts (s : State) (x : Node) : (s.withNode x).verdicts = s.verdicts := rfl
@[simp] theorem State.withNode_link (s : State) (x : Node) : (s.withNode x).link = s.link := rfl
@[simp] theorem State.withNode_transit (s : State) (x : Node) : (s.withNode x).transit = s.transit := rfl
@[simp] theorem State.withNode_reject (s : State) (x : Node) : (s.withNode x).reject = s.reject := rfl

/-! ### withMemory -/

@[simp] theorem State.withMemory_pending (s : State) (x : Memory) :
    (s.withMemory x).pending = s.pending := rfl
@[simp] theorem State.withMemory_timeBase (s : State) (x : Memory) :
    (s.withMemory x).timeBase = s.timeBase := rfl
@[simp] theorem State.withMemory_pins (s : State) (x : Memory) : (s.withMemory x).pins = s.pins := rfl
@[simp] theorem State.withMemory_node (s : State) (x : Memory) : (s.withMemory x).node = s.node := rfl
@[simp] theorem State.withMemory_memory (s : State) (x : Memory) : (s.withMemory x).memory = x := rfl
@[simp] theorem State.withMemory_config (s : State) (x : Memory) : (s.withMemory x).config = s.config := rfl
@[simp] theorem State.withMemory_counters (s : State) (x : Memory) :
    (s.withMemory x).counters = s.counters := rfl
@[simp] theorem State.withMemory_tracker (s : State) (x : Memory) :
    (s.withMemory x).tracker = s.tracker := rfl
@[simp] theorem State.withMemory_seq (s : State) (x : Memory) : (s.withMemory x).seq = s.seq := rfl
@[simp] theorem State.withMemory_steam (s : State) (x : Memory) : (s.withMemory x).steam = s.steam := rfl
@[simp] theorem State.withMemory_closing (s : State) (x : Memory) :
    (s.withMemory x).closing = s.closing := rfl
@[simp] theorem State.withMemory_verdicts (s : State) (x : Memory) :
    (s.withMemory x).verdicts = s.verdicts := rfl
@[simp] theorem State.withMemory_link (s : State) (x : Memory) : (s.withMemory x).link = s.link := rfl
@[simp] theorem State.withMemory_transit (s : State) (x : Memory) :
    (s.withMemory x).transit = s.transit := rfl
@[simp] theorem State.withMemory_reject (s : State) (x : Memory) : (s.withMemory x).reject = s.reject := rfl

/-! ### withConfig -/

@[simp] theorem State.withConfig_pending (s : State) (x : ConfigUnit) :
    (s.withConfig x).pending = s.pending := rfl
@[simp] theorem State.withConfig_timeBase (s : State) (x : ConfigUnit) :
    (s.withConfig x).timeBase = s.timeBase := rfl
@[simp] theorem State.withConfig_pins (s : State) (x : ConfigUnit) : (s.withConfig x).pins = s.pins := rfl
@[simp] theorem State.withConfig_node (s : State) (x : ConfigUnit) : (s.withConfig x).node = s.node := rfl
@[simp] theorem State.withConfig_memory (s : State) (x : ConfigUnit) :
    (s.withConfig x).memory = s.memory := rfl
@[simp] theorem State.withConfig_config (s : State) (x : ConfigUnit) : (s.withConfig x).config = x := rfl
@[simp] theorem State.withConfig_counters (s : State) (x : ConfigUnit) :
    (s.withConfig x).counters = s.counters := rfl
@[simp] theorem State.withConfig_tracker (s : State) (x : ConfigUnit) :
    (s.withConfig x).tracker = s.tracker := rfl
@[simp] theorem State.withConfig_seq (s : State) (x : ConfigUnit) : (s.withConfig x).seq = s.seq := rfl
@[simp] theorem State.withConfig_steam (s : State) (x : ConfigUnit) : (s.withConfig x).steam = s.steam := rfl
@[simp] theorem State.withConfig_closing (s : State) (x : ConfigUnit) :
    (s.withConfig x).closing = s.closing := rfl
@[simp] theorem State.withConfig_verdicts (s : State) (x : ConfigUnit) :
    (s.withConfig x).verdicts = s.verdicts := rfl
@[simp] theorem State.withConfig_link (s : State) (x : ConfigUnit) : (s.withConfig x).link = s.link := rfl
@[simp] theorem State.withConfig_transit (s : State) (x : ConfigUnit) :
    (s.withConfig x).transit = s.transit := rfl
@[simp] theorem State.withConfig_reject (s : State) (x : ConfigUnit) :
    (s.withConfig x).reject = s.reject := rfl

/-! ### withCounters -/

@[simp] theorem State.withCounters_pending (s : State) (x : Counters) :
    (s.withCounters x).pending = s.pending := rfl
@[simp] theorem State.withCounters_timeBase (s : State) (x : Counters) :
    (s.withCounters x).timeBase = s.timeBase := rfl
@[simp] theorem State.withCounters_pins (s : State) (x : Counters) : (s.withCounters x).pins = s.pins := rfl
@[simp] theorem State.withCounters_node (s : State) (x : Counters) : (s.withCounters x).node = s.node := rfl
@[simp] theorem State.withCounters_memory (s : State) (x : Counters) :
    (s.withCounters x).memory = s.memory := rfl
@[simp] theorem State.withCounters_config (s : State) (x : Counters) :
    (s.withCounters x).config = s.config := rfl
@[simp] theorem State.withCounters_counters (s : State) (x : Counters) :
    (s.withCounters x).counters = x := rfl
@[simp] theorem State.withCounters_tracker (s : State) (x : Counters) :
    (s.withCounters x).tracker = s.tracker := rfl
@[simp] theorem State.withCounters_seq (s : State) (x : Counters) : (s.withCounters x).seq = s.seq := rfl
@[simp] theorem State.withCounters_steam (s : State) (x : Counters) :
    (s.withCounters x).steam = s.steam := rfl
@[simp] theorem State.withCounters_closing (s : State) (x : Counters) :
    (s.withCounters x).closing = s.closing := rfl
@[simp] theorem State.withCounters_verdicts (s : State) (x : Counters) :
    (s.withCounters x).verdicts = s.verdicts := rfl
@[simp] theorem State.withCounters_link (s : State) (x : Counters) : (s.withCounters x).link = s.link := rfl
@[simp] theorem State.withCounters_transit (s : State) (x : Counters) :
    (s.withCounters x).transit = s.transit := rfl
@[simp] theorem State.withCounters_reject (s : State) (x : Counters) :
    (s.withCounters x).reject = s.reject := rfl

/-! ### withTracker -/

@[simp] theorem State.withTracker_pending (s : State) (x : Tracker) :
    (s.withTracker x).pending = s.pending := rfl
@[simp] theorem State.withTracker_timeBase (s : State) (x : Tracker) :
    (s.withTracker x).timeBase = s.timeBase := rfl
@[simp] theorem State.withTracker_pins (s : State) (x : Tracker) : (s.withTracker x).pins = s.pins := rfl
@[simp] theorem State.withTracker_node (s : State) (x : Tracker) : (s.withTracker x).node = s.node := rfl
@[simp] theorem State.withTracker_memory (s : State) (x : Tracker) :
    (s.withTracker x).memory = s.memory := rfl
@[simp] theorem State.withTracker_config (s : State) (x : Tracker) :
    (s.withTracker x).config = s.config := rfl
@[simp] theorem State.withTracker_counters (s : State) (x : Tracker) :
    (s.withTracker x).counters = s.counters := rfl
@[simp] theorem State.withTracker_tracker (s : State) (x : Tracker) : (s.withTracker x).tracker = x := rfl
@[simp] theorem State.withTracker_seq (s : State) (x : Tracker) : (s.withTracker x).seq = s.seq := rfl
@[simp] theorem State.withTracker_steam (s : State) (x : Tracker) : (s.withTracker x).steam = s.steam := rfl
@[simp] theorem State.withTracker_closing (s : State) (x : Tracker) :
    (s.withTracker x).closing = s.closing := rfl
@[simp] theorem State.withTracker_verdicts (s : State) (x : Tracker) :
    (s.withTracker x).verdicts = s.verdicts := rfl
@[simp] theorem State.withTracker_link (s : State) (x : Tracker) : (s.withTracker x).link = s.link := rfl
@[simp] theorem State.withTracker_transit (s : State) (x : Tracker) :
    (s.withTracker x).transit = s.transit := rfl
@[simp] theorem State.withTracker_reject (s : State) (x : Tracker) :
    (s.withTracker x).reject = s.reject := rfl

/-! ### withSeq -/

@[simp] theorem State.withSeq_pending (s : State) (x : Sequencer) : (s.withSeq x).pending = s.pending := rfl
@[simp] theorem State.withSeq_timeBase (s : State) (x : Sequencer) :
    (s.withSeq x).timeBase = s.timeBase := rfl
@[simp] theorem State.withSeq_pins (s : State) (x : Sequencer) : (s.withSeq x).pins = s.pins := rfl
@[simp] theorem State.withSeq_node (s : State) (x : Sequencer) : (s.withSeq x).node = s.node := rfl
@[simp] theorem State.withSeq_memory (s : State) (x : Sequencer) : (s.withSeq x).memory = s.memory := rfl
@[simp] theorem State.withSeq_config (s : State) (x : Sequencer) : (s.withSeq x).config = s.config := rfl
@[simp] theorem State.withSeq_counters (s : State) (x : Sequencer) :
    (s.withSeq x).counters = s.counters := rfl
@[simp] theorem State.withSeq_tracker (s : State) (x : Sequencer) : (s.withSeq x).tracker = s.tracker := rfl
@[simp] theorem State.withSeq_seq (s : State) (x : Sequencer) : (s.withSeq x).seq = x := rfl
@[simp] theorem State.withSeq_steam (s : State) (x : Sequencer) : (s.withSeq x).steam = s.steam := rfl
@[simp] theorem State.withSeq_closing (s : State) (x : Sequencer) : (s.withSeq x).closing = s.closing := rfl
@[simp] theorem State.withSeq_verdicts (s : State) (x : Sequencer) :
    (s.withSeq x).verdicts = s.verdicts := rfl
@[simp] theorem State.withSeq_link (s : State) (x : Sequencer) : (s.withSeq x).link = s.link := rfl
@[simp] theorem State.withSeq_transit (s : State) (x : Sequencer) : (s.withSeq x).transit = s.transit := rfl
@[simp] theorem State.withSeq_reject (s : State) (x : Sequencer) : (s.withSeq x).reject = s.reject := rfl

/-! ### withSteam -/

@[simp] theorem State.withSteam_pending (s : State) (x : Steam) : (s.withSteam x).pending = s.pending := rfl
@[simp] theorem State.withSteam_timeBase (s : State) (x : Steam) :
    (s.withSteam x).timeBase = s.timeBase := rfl
@[simp] theorem State.withSteam_pins (s : State) (x : Steam) : (s.withSteam x).pins = s.pins := rfl
@[simp] theorem State.withSteam_node (s : State) (x : Steam) : (s.withSteam x).node = s.node := rfl
@[simp] theorem State.withSteam_memory (s : State) (x : Steam) : (s.withSteam x).memory = s.memory := rfl
@[simp] theorem State.withSteam_config (s : State) (x : Steam) : (s.withSteam x).config = s.config := rfl
@[simp] theorem State.withSteam_counters (s : State) (x : Steam) :
    (s.withSteam x).counters = s.counters := rfl
@[simp] theorem State.withSteam_tracker (s : State) (x : Steam) : (s.withSteam x).tracker = s.tracker := rfl
@[simp] theorem State.withSteam_seq (s : State) (x : Steam) : (s.withSteam x).seq = s.seq := rfl
@[simp] theorem State.withSteam_steam (s : State) (x : Steam) : (s.withSteam x).steam = x := rfl
@[simp] theorem State.withSteam_closing (s : State) (x : Steam) : (s.withSteam x).closing = s.closing := rfl
@[simp] theorem State.withSteam_verdicts (s : State) (x : Steam) :
    (s.withSteam x).verdicts = s.verdicts := rfl
@[simp] theorem State.withSteam_link (s : State) (x : Steam) : (s.withSteam x).link = s.link := rfl
@[simp] theorem State.withSteam_transit (s : State) (x : Steam) : (s.withSteam x).transit = s.transit := rfl
@[simp] theorem State.withSteam_reject (s : State) (x : Steam) : (s.withSteam x).reject = s.reject := rfl

/-! ### withClosing -/

@[simp] theorem State.withClosing_pending (s : State) (x : Closing) :
    (s.withClosing x).pending = s.pending := rfl
@[simp] theorem State.withClosing_timeBase (s : State) (x : Closing) :
    (s.withClosing x).timeBase = s.timeBase := rfl
@[simp] theorem State.withClosing_pins (s : State) (x : Closing) : (s.withClosing x).pins = s.pins := rfl
@[simp] theorem State.withClosing_node (s : State) (x : Closing) : (s.withClosing x).node = s.node := rfl
@[simp] theorem State.withClosing_memory (s : State) (x : Closing) :
    (s.withClosing x).memory = s.memory := rfl
@[simp] theorem State.withClosing_config (s : State) (x : Closing) :
    (s.withClosing x).config = s.config := rfl
@[simp] theorem State.withClosing_counters (s : State) (x : Closing) :
    (s.withClosing x).counters = s.counters := rfl
@[simp] theorem State.withClosing_tracker (s : State) (x : Closing) :
    (s.withClosing x).tracker = s.tracker := rfl
@[simp] theorem State.withClosing_seq (s : State) (x : Closing) : (s.withClosing x).seq = s.seq := rfl
@[simp] theorem State.withClosing_steam (s : State) (x : Closing) : (s.withClosing x).steam = s.steam := rfl
@[simp] theorem State.withClosing_closing (s : State) (x : Closing) : (s.withClosing x).closing = x := rfl
@[simp] theorem State.withClosing_verdicts (s : State) (x : Closing) :
    (s.withClosing x).verdicts = s.verdicts := rfl
@[simp] theorem State.withClosing_link (s : State) (x : Closing) : (s.withClosing x).link = s.link := rfl
@[simp] theorem State.withClosing_transit (s : State) (x : Closing) :
    (s.withClosing x).transit = s.transit := rfl
@[simp] theorem State.withClosing_reject (s : State) (x : Closing) :
    (s.withClosing x).reject = s.reject := rfl

/-! ### withVerdicts -/

@[simp] theorem State.withVerdicts_pending (s : State) (x : VerdictList) :
    (s.withVerdicts x).pending = s.pending := rfl
@[simp] theorem State.withVerdicts_timeBase (s : State) (x : VerdictList) :
    (s.withVerdicts x).timeBase = s.timeBase := rfl
@[simp] theorem State.withVerdicts_pins (s : State) (x : VerdictList) :
    (s.withVerdicts x).pins = s.pins := rfl
@[simp] theorem State.withVerdicts_node (s : State) (x : VerdictList) :
    (s.withVerdicts x).node = s.node := rfl
@[simp] theorem State.withVerdicts_memory (s : State) (x : VerdictList) :
    (s.withVerdicts x).memory = s.memory := rfl
@[simp] theorem State.withVerdicts_config (s : State) (x : VerdictList) :
    (s.withVerdicts x).config = s.config := rfl
@[simp] theorem State.withVerdicts_counters (s : State) (x : VerdictList) :
    (s.withVerdicts x).counters = s.counters := rfl
@[simp] theorem State.withVerdicts_tracker (s : State) (x : VerdictList) :
    (s.withVerdicts x).tracker = s.tracker := rfl
@[simp] theorem State.withVerdicts_seq (s : State) (x : VerdictList) : (s.withVerdicts x).seq = s.seq := rfl
@[simp] theorem State.withVerdicts_steam (s : State) (x : VerdictList) :
    (s.withVerdicts x).steam = s.steam := rfl
@[simp] theorem State.withVerdicts_closing (s : State) (x : VerdictList) :
    (s.withVerdicts x).closing = s.closing := rfl
@[simp] theorem State.withVerdicts_verdicts (s : State) (x : VerdictList) :
    (s.withVerdicts x).verdicts = x := rfl
@[simp] theorem State.withVerdicts_link (s : State) (x : VerdictList) :
    (s.withVerdicts x).link = s.link := rfl
@[simp] theorem State.withVerdicts_transit (s : State) (x : VerdictList) :
    (s.withVerdicts x).transit = s.transit := rfl
@[simp] theorem State.withVerdicts_reject (s : State) (x : VerdictList) :
    (s.withVerdicts x).reject = s.reject := rfl

/-! ### withLink -/

@[simp] theorem State.withLink_pending (s : State) (x : Link) : (s.withLink x).pending = s.pending := rfl
@[simp] theorem State.withLink_timeBase (s : State) (x : Link) : (s.withLink x).timeBase = s.timeBase := rfl
@[simp] theorem State.withLink_pins (s : State) (x : Link) : (s.withLink x).pins = s.pins := rfl
@[simp] theorem State.withLink_node (s : State) (x : Link) : (s.withLink x).node = s.node := rfl
@[simp] theorem State.withLink_memory (s : State) (x : Link) : (s.withLink x).memory = s.memory := rfl
@[simp] theorem State.withLink_config (s : State) (x : Link) : (s.withLink x).config = s.config := rfl
@[simp] theorem State.withLink_counters (s : State) (x : Link) : (s.withLink x).counters = s.counters := rfl
@[simp] theorem State.withLink_tracker (s : State) (x : Link) : (s.withLink x).tracker = s.tracker := rfl
@[simp] theorem State.withLink_seq (s : State) (x : Link) : (s.withLink x).seq = s.seq := rfl
@[simp] theorem State.withLink_steam (s : State) (x : Link) : (s.withLink x).steam = s.steam := rfl
@[simp] theorem State.withLink_closing (s : State) (x : Link) : (s.withLink x).closing = s.closing := rfl
@[simp] theorem State.withLink_verdicts (s : State) (x : Link) : (s.withLink x).verdicts = s.verdicts := rfl
@[simp] theorem State.withLink_link (s : State) (x : Link) : (s.withLink x).link = x := rfl
@[simp] theorem State.withLink_transit (s : State) (x : Link) : (s.withLink x).transit = s.transit := rfl
@[simp] theorem State.withLink_reject (s : State) (x : Link) : (s.withLink x).reject = s.reject := rfl

/-! ### withTransit -/

@[simp] theorem State.withTransit_pending (s : State) (x : Transit) :
    (s.withTransit x).pending = s.pending := rfl
@[simp] theorem State.withTransit_timeBase (s : State) (x : Transit) :
    (s.withTransit x).timeBase = s.timeBase := rfl
@[simp] theorem State.withTransit_pins (s : State) (x : Transit) : (s.withTransit x).pins = s.pins := rfl
@[simp] theorem State.withTransit_node (s : State) (x : Transit) : (s.withTransit x).node = s.node := rfl
@[simp] theorem State.withTransit_memory (s : State) (x : Transit) :
    (s.withTransit x).memory = s.memory := rfl
@[simp] theorem State.withTransit_config (s : State) (x : Transit) :
    (s.withTransit x).config = s.config := rfl
@[simp] theorem State.withTransit_counters (s : State) (x : Transit) :
    (s.withTransit x).counters = s.counters := rfl
@[simp] theorem State.withTransit_tracker (s : State) (x : Transit) :
    (s.withTransit x).tracker = s.tracker := rfl
@[simp] theorem State.withTransit_seq (s : State) (x : Transit) : (s.withTransit x).seq = s.seq := rfl
@[simp] theorem State.withTransit_steam (s : State) (x : Transit) : (s.withTransit x).steam = s.steam := rfl
@[simp] theorem State.withTransit_closing (s : State) (x : Transit) :
    (s.withTransit x).closing = s.closing := rfl
@[simp] theorem State.withTransit_verdicts (s : State) (x : Transit) :
    (s.withTransit x).verdicts = s.verdicts := rfl
@[simp] theorem State.withTransit_link (s : State) (x : Transit) : (s.withTransit x).link = s.link := rfl
@[simp] theorem State.withTransit_transit (s : State) (x : Transit) : (s.withTransit x).transit = x := rfl
@[simp] theorem State.withTransit_reject (s : State) (x : Transit) :
    (s.withTransit x).reject = s.reject := rfl

/-! ### withReject -/

@[simp] theorem State.withReject_pending (s : State) (x : RejectUnit) :
    (s.withReject x).pending = s.pending := rfl
@[simp] theorem State.withReject_timeBase (s : State) (x : RejectUnit) :
    (s.withReject x).timeBase = s.timeBase := rfl
@[simp] theorem State.withReject_pins (s : State) (x : RejectUnit) : (s.withReject x).pins = s.pins := rfl
@[simp] theorem State.withReject_node (s : State) (x : RejectUnit) : (s.withReject x).node = s.node := rfl
@[simp] theorem State.withReject_memory (s : State) (x : RejectUnit) :
    (s.withReject x).memory = s.memory := rfl
@[simp] theorem State.withReject_config (s : State) (x : RejectUnit) :
    (s.withReject x).config = s.config := rfl
@[simp] theorem State.withReject_counters (s : State) (x : RejectUnit) :
    (s.withReject x).counters = s.counters := rfl
@[simp] theorem State.withReject_tracker (s : State) (x : RejectUnit) :
    (s.withReject x).tracker = s.tracker := rfl
@[simp] theorem State.withReject_seq (s : State) (x : RejectUnit) : (s.withReject x).seq = s.seq := rfl
@[simp] theorem State.withReject_steam (s : State) (x : RejectUnit) : (s.withReject x).steam = s.steam := rfl
@[simp] theorem State.withReject_closing (s : State) (x : RejectUnit) :
    (s.withReject x).closing = s.closing := rfl
@[simp] theorem State.withReject_verdicts (s : State) (x : RejectUnit) :
    (s.withReject x).verdicts = s.verdicts := rfl
@[simp] theorem State.withReject_link (s : State) (x : RejectUnit) : (s.withReject x).link = s.link := rfl
@[simp] theorem State.withReject_transit (s : State) (x : RejectUnit) :
    (s.withReject x).transit = s.transit := rfl
@[simp] theorem State.withReject_reject (s : State) (x : RejectUnit) : (s.withReject x).reject = x := rfl

/-! ### countHead -/

@[simp] theorem State.countHead_pending (s : State) (f : HeadCounters →
    HeadCounters) : (s.countHead f).pending = s.pending := rfl
@[simp] theorem State.countHead_timeBase (s : State) (f : HeadCounters →
    HeadCounters) : (s.countHead f).timeBase = s.timeBase := rfl
@[simp] theorem State.countHead_pins (s : State) (f : HeadCounters →
    HeadCounters) : (s.countHead f).pins = s.pins := rfl
@[simp] theorem State.countHead_node (s : State) (f : HeadCounters →
    HeadCounters) : (s.countHead f).node = s.node := rfl
@[simp] theorem State.countHead_memory (s : State) (f : HeadCounters →
    HeadCounters) : (s.countHead f).memory = s.memory := rfl
@[simp] theorem State.countHead_config (s : State) (f : HeadCounters →
    HeadCounters) : (s.countHead f).config = s.config := rfl
@[simp] theorem State.countHead_counters (s : State) (f : HeadCounters →
    HeadCounters) : (s.countHead f).counters = { s.counters with head := f s.counters.head } := rfl
@[simp] theorem State.countHead_tracker (s : State) (f : HeadCounters →
    HeadCounters) : (s.countHead f).tracker = s.tracker := rfl
@[simp] theorem State.countHead_seq (s : State) (f : HeadCounters →
    HeadCounters) : (s.countHead f).seq = s.seq := rfl
@[simp] theorem State.countHead_steam (s : State) (f : HeadCounters →
    HeadCounters) : (s.countHead f).steam = s.steam := rfl
@[simp] theorem State.countHead_closing (s : State) (f : HeadCounters →
    HeadCounters) : (s.countHead f).closing = s.closing := rfl
@[simp] theorem State.countHead_verdicts (s : State) (f : HeadCounters →
    HeadCounters) : (s.countHead f).verdicts = s.verdicts := rfl
@[simp] theorem State.countHead_link (s : State) (f : HeadCounters →
    HeadCounters) : (s.countHead f).link = s.link := rfl
@[simp] theorem State.countHead_transit (s : State) (f : HeadCounters →
    HeadCounters) : (s.countHead f).transit = s.transit := rfl
@[simp] theorem State.countHead_reject (s : State) (f : HeadCounters →
    HeadCounters) : (s.countHead f).reject = s.reject := rfl

/-! ### countCheck -/

@[simp] theorem State.countCheck_pending (s : State) (f : CheckCounters →
    CheckCounters) : (s.countCheck f).pending = s.pending := rfl
@[simp] theorem State.countCheck_timeBase (s : State) (f : CheckCounters →
    CheckCounters) : (s.countCheck f).timeBase = s.timeBase := rfl
@[simp] theorem State.countCheck_pins (s : State) (f : CheckCounters →
    CheckCounters) : (s.countCheck f).pins = s.pins := rfl
@[simp] theorem State.countCheck_node (s : State) (f : CheckCounters →
    CheckCounters) : (s.countCheck f).node = s.node := rfl
@[simp] theorem State.countCheck_memory (s : State) (f : CheckCounters →
    CheckCounters) : (s.countCheck f).memory = s.memory := rfl
@[simp] theorem State.countCheck_config (s : State) (f : CheckCounters →
    CheckCounters) : (s.countCheck f).config = s.config := rfl
@[simp] theorem State.countCheck_counters (s : State) (f : CheckCounters →
    CheckCounters) : (s.countCheck f).counters = { s.counters with check := f s.counters.check } := rfl
@[simp] theorem State.countCheck_tracker (s : State) (f : CheckCounters →
    CheckCounters) : (s.countCheck f).tracker = s.tracker := rfl
@[simp] theorem State.countCheck_seq (s : State) (f : CheckCounters →
    CheckCounters) : (s.countCheck f).seq = s.seq := rfl
@[simp] theorem State.countCheck_steam (s : State) (f : CheckCounters →
    CheckCounters) : (s.countCheck f).steam = s.steam := rfl
@[simp] theorem State.countCheck_closing (s : State) (f : CheckCounters →
    CheckCounters) : (s.countCheck f).closing = s.closing := rfl
@[simp] theorem State.countCheck_verdicts (s : State) (f : CheckCounters →
    CheckCounters) : (s.countCheck f).verdicts = s.verdicts := rfl
@[simp] theorem State.countCheck_link (s : State) (f : CheckCounters →
    CheckCounters) : (s.countCheck f).link = s.link := rfl
@[simp] theorem State.countCheck_transit (s : State) (f : CheckCounters →
    CheckCounters) : (s.countCheck f).transit = s.transit := rfl
@[simp] theorem State.countCheck_reject (s : State) (f : CheckCounters →
    CheckCounters) : (s.countCheck f).reject = s.reject := rfl

/-! ### countLink -/

@[simp] theorem State.countLink_pending (s : State) (f : LinkCounters →
    LinkCounters) : (s.countLink f).pending = s.pending := rfl
@[simp] theorem State.countLink_timeBase (s : State) (f : LinkCounters →
    LinkCounters) : (s.countLink f).timeBase = s.timeBase := rfl
@[simp] theorem State.countLink_pins (s : State) (f : LinkCounters →
    LinkCounters) : (s.countLink f).pins = s.pins := rfl
@[simp] theorem State.countLink_node (s : State) (f : LinkCounters →
    LinkCounters) : (s.countLink f).node = s.node := rfl
@[simp] theorem State.countLink_memory (s : State) (f : LinkCounters →
    LinkCounters) : (s.countLink f).memory = s.memory := rfl
@[simp] theorem State.countLink_config (s : State) (f : LinkCounters →
    LinkCounters) : (s.countLink f).config = s.config := rfl
@[simp] theorem State.countLink_counters (s : State) (f : LinkCounters →
    LinkCounters) : (s.countLink f).counters = { s.counters with link := f s.counters.link } := rfl
@[simp] theorem State.countLink_tracker (s : State) (f : LinkCounters →
    LinkCounters) : (s.countLink f).tracker = s.tracker := rfl
@[simp] theorem State.countLink_seq (s : State) (f : LinkCounters →
    LinkCounters) : (s.countLink f).seq = s.seq := rfl
@[simp] theorem State.countLink_steam (s : State) (f : LinkCounters →
    LinkCounters) : (s.countLink f).steam = s.steam := rfl
@[simp] theorem State.countLink_closing (s : State) (f : LinkCounters →
    LinkCounters) : (s.countLink f).closing = s.closing := rfl
@[simp] theorem State.countLink_verdicts (s : State) (f : LinkCounters →
    LinkCounters) : (s.countLink f).verdicts = s.verdicts := rfl
@[simp] theorem State.countLink_link (s : State) (f : LinkCounters →
    LinkCounters) : (s.countLink f).link = s.link := rfl
@[simp] theorem State.countLink_transit (s : State) (f : LinkCounters →
    LinkCounters) : (s.countLink f).transit = s.transit := rfl
@[simp] theorem State.countLink_reject (s : State) (f : LinkCounters →
    LinkCounters) : (s.countLink f).reject = s.reject := rfl

/-! ### refuseCommand -/

@[simp] theorem State.refuseCommand_pending (s : State) : (s.refuseCommand).pending = s.pending := rfl
@[simp] theorem State.refuseCommand_timeBase (s : State) : (s.refuseCommand).timeBase = s.timeBase := rfl
@[simp] theorem State.refuseCommand_pins (s : State) : (s.refuseCommand).pins = s.pins := rfl
@[simp] theorem State.refuseCommand_node (s : State) : (s.refuseCommand).node = s.node := rfl
@[simp] theorem State.refuseCommand_memory (s : State) : (s.refuseCommand).memory = s.memory := rfl
@[simp] theorem State.refuseCommand_config (s : State) : (s.refuseCommand).config = s.config := rfl
@[simp] theorem State.refuseCommand_counters (s : State) :
    (s.refuseCommand).counters = { s.counters with refused := s.counters.refused + 1 } := rfl
@[simp] theorem State.refuseCommand_tracker (s : State) : (s.refuseCommand).tracker = s.tracker := rfl
@[simp] theorem State.refuseCommand_seq (s : State) : (s.refuseCommand).seq = s.seq := rfl
@[simp] theorem State.refuseCommand_steam (s : State) : (s.refuseCommand).steam = s.steam := rfl
@[simp] theorem State.refuseCommand_closing (s : State) : (s.refuseCommand).closing = s.closing := rfl
@[simp] theorem State.refuseCommand_verdicts (s : State) : (s.refuseCommand).verdicts = s.verdicts := rfl
@[simp] theorem State.refuseCommand_link (s : State) : (s.refuseCommand).link = s.link := rfl
@[simp] theorem State.refuseCommand_transit (s : State) : (s.refuseCommand).transit = s.transit := rfl
@[simp] theorem State.refuseCommand_reject (s : State) : (s.refuseCommand).reject = s.reject := rfl

/-! ### countLifetime -/

@[simp] theorem State.countLifetime_pending (s : State) (f : Lifetime →
    Lifetime) : (s.countLifetime f).pending = s.pending := rfl
@[simp] theorem State.countLifetime_timeBase (s : State) (f : Lifetime →
    Lifetime) : (s.countLifetime f).timeBase = s.timeBase := rfl
@[simp] theorem State.countLifetime_pins (s : State) (f : Lifetime →
    Lifetime) : (s.countLifetime f).pins = s.pins := rfl
@[simp] theorem State.countLifetime_node (s : State) (f : Lifetime →
    Lifetime) : (s.countLifetime f).node = s.node := rfl
@[simp] theorem State.countLifetime_memory (s : State) (f : Lifetime →
    Lifetime) : (s.countLifetime f).memory = s.memory := rfl
@[simp] theorem State.countLifetime_config (s : State) (f : Lifetime →
    Lifetime) : (s.countLifetime f).config = { s.config with lifetime := f s.config.lifetime } := rfl
@[simp] theorem State.countLifetime_counters (s : State) (f : Lifetime →
    Lifetime) : (s.countLifetime f).counters = s.counters := rfl
@[simp] theorem State.countLifetime_tracker (s : State) (f : Lifetime →
    Lifetime) : (s.countLifetime f).tracker = s.tracker := rfl
@[simp] theorem State.countLifetime_seq (s : State) (f : Lifetime →
    Lifetime) : (s.countLifetime f).seq = s.seq := rfl
@[simp] theorem State.countLifetime_steam (s : State) (f : Lifetime →
    Lifetime) : (s.countLifetime f).steam = s.steam := rfl
@[simp] theorem State.countLifetime_closing (s : State) (f : Lifetime →
    Lifetime) : (s.countLifetime f).closing = s.closing := rfl
@[simp] theorem State.countLifetime_verdicts (s : State) (f : Lifetime →
    Lifetime) : (s.countLifetime f).verdicts = s.verdicts := rfl
@[simp] theorem State.countLifetime_link (s : State) (f : Lifetime →
    Lifetime) : (s.countLifetime f).link = s.link := rfl
@[simp] theorem State.countLifetime_transit (s : State) (f : Lifetime →
    Lifetime) : (s.countLifetime f).transit = s.transit := rfl
@[simp] theorem State.countLifetime_reject (s : State) (f : Lifetime →
    Lifetime) : (s.countLifetime f).reject = s.reject := rfl

/-! ### onRecord -/

@[simp] theorem State.onRecord_pending (s : State) (f : Record →
    Record) : (s.onRecord f).pending = s.pending := rfl
@[simp] theorem State.onRecord_timeBase (s : State) (f : Record →
    Record) : (s.onRecord f).timeBase = s.timeBase := rfl
@[simp] theorem State.onRecord_pins (s : State) (f : Record → Record) : (s.onRecord f).pins = s.pins := rfl
@[simp] theorem State.onRecord_node (s : State) (f : Record → Record) : (s.onRecord f).node = s.node := rfl
@[simp] theorem State.onRecord_memory (s : State) (f : Record →
    Record) : (s.onRecord f).memory = s.memory := rfl
@[simp] theorem State.onRecord_config (s : State) (f : Record →
    Record) : (s.onRecord f).config = s.config := rfl
@[simp] theorem State.onRecord_counters (s : State) (f : Record →
    Record) : (s.onRecord f).counters = s.counters := rfl
@[simp] theorem State.onRecord_tracker (s : State) (f : Record →
    Record) : (s.onRecord f).tracker = s.tracker := rfl
@[simp] theorem State.onRecord_seq (s : State) (f : Record →
    Record) : (s.onRecord f).seq = { s.seq with record := s.seq.record.map f } := rfl
@[simp] theorem State.onRecord_steam (s : State) (f : Record → Record) : (s.onRecord f).steam = s.steam := rfl
@[simp] theorem State.onRecord_closing (s : State) (f : Record →
    Record) : (s.onRecord f).closing = s.closing := rfl
@[simp] theorem State.onRecord_verdicts (s : State) (f : Record →
    Record) : (s.onRecord f).verdicts = s.verdicts := rfl
@[simp] theorem State.onRecord_link (s : State) (f : Record → Record) : (s.onRecord f).link = s.link := rfl
@[simp] theorem State.onRecord_transit (s : State) (f : Record →
    Record) : (s.onRecord f).transit = s.transit := rfl
@[simp] theorem State.onRecord_reject (s : State) (f : Record →
    Record) : (s.onRecord f).reject = s.reject := rfl

/-! ### onClosing -/

@[simp] theorem State.onClosing_pending (s : State) (f : Closing →
    Closing) : (s.onClosing f).pending = s.pending := rfl
@[simp] theorem State.onClosing_timeBase (s : State) (f : Closing →
    Closing) : (s.onClosing f).timeBase = s.timeBase := rfl
@[simp] theorem State.onClosing_pins (s : State) (f : Closing →
    Closing) : (s.onClosing f).pins = s.pins := rfl
@[simp] theorem State.onClosing_node (s : State) (f : Closing →
    Closing) : (s.onClosing f).node = s.node := rfl
@[simp] theorem State.onClosing_memory (s : State) (f : Closing →
    Closing) : (s.onClosing f).memory = s.memory := rfl
@[simp] theorem State.onClosing_config (s : State) (f : Closing →
    Closing) : (s.onClosing f).config = s.config := rfl
@[simp] theorem State.onClosing_counters (s : State) (f : Closing →
    Closing) : (s.onClosing f).counters = s.counters := rfl
@[simp] theorem State.onClosing_tracker (s : State) (f : Closing →
    Closing) : (s.onClosing f).tracker = s.tracker := rfl
@[simp] theorem State.onClosing_seq (s : State) (f : Closing → Closing) : (s.onClosing f).seq = s.seq := rfl
@[simp] theorem State.onClosing_steam (s : State) (f : Closing →
    Closing) : (s.onClosing f).steam = s.steam := rfl
@[simp] theorem State.onClosing_closing (s : State) (f : Closing →
    Closing) : (s.onClosing f).closing = f s.closing := rfl
@[simp] theorem State.onClosing_verdicts (s : State) (f : Closing →
    Closing) : (s.onClosing f).verdicts = s.verdicts := rfl
@[simp] theorem State.onClosing_link (s : State) (f : Closing →
    Closing) : (s.onClosing f).link = s.link := rfl
@[simp] theorem State.onClosing_transit (s : State) (f : Closing →
    Closing) : (s.onClosing f).transit = s.transit := rfl
@[simp] theorem State.onClosing_reject (s : State) (f : Closing →
    Closing) : (s.onClosing f).reject = s.reject := rfl

end Sys2Proof.Machine
end

