-- ==== Sys2Proof/Laws/Frames.lean ====
section
/-! SUPPORT. The frame of each operation of the blocks: the parts of the state that it never changes. -/

namespace Sys2Proof.Machine

@[simp] theorem State.endReport_frame (s : State) (lost : Bool) :
    (s.endReport lost).pending = s.pending ∧ (s.endReport lost).timeBase = s.timeBase ∧
    (s.endReport lost).pins = s.pins ∧ (s.endReport lost).node = s.node ∧
    (s.endReport lost).memory = s.memory ∧ (s.endReport lost).config.header = s.config.header ∧
    (s.endReport lost).config.banks = s.config.banks ∧ (s.endReport lost).config.usable = s.config.usable ∧
    (s.endReport lost).config.signature = s.config.signature ∧
    (s.endReport lost).config.persistent = s.config.persistent ∧ (s.endReport lost).tracker = s.tracker ∧
    (s.endReport lost).seq = s.seq ∧ (s.endReport lost).steam = s.steam ∧
    (s.endReport lost).closing = s.closing ∧ (s.endReport lost).verdicts = s.verdicts ∧
    (s.endReport lost).link = s.link ∧ (s.endReport lost).transit = s.transit ∧
    (s.endReport lost).reject = s.reject := by
  suffices h : ∀ u, s.endReport lost = u → u.pending = s.pending ∧ u.timeBase = s.timeBase ∧
      u.pins = s.pins ∧ u.node = s.node ∧ u.memory = s.memory ∧
    u.config.header = s.config.header ∧ u.config.banks = s.config.banks ∧ u.config.usable = s.config.usable ∧
    u.config.signature = s.config.signature ∧ u.config.persistent = s.config.persistent ∧
    u.tracker = s.tracker ∧ u.seq = s.seq ∧ u.steam = s.steam ∧ u.closing = s.closing ∧
    u.verdicts = s.verdicts ∧ u.link = s.link ∧ u.transit = s.transit ∧ u.reject = s.reject from h _ rfl
  intro u hu
  simp only [State.endReport] at hu
  (repeat' split at hu) <;> subst hu <;> simp

@[simp] theorem State.pageLeft_frame (s : State) (lost : Bool) :
    (s.pageLeft lost).pending = s.pending ∧ (s.pageLeft lost).timeBase = s.timeBase ∧
    (s.pageLeft lost).pins = s.pins ∧ (s.pageLeft lost).node = s.node ∧ (s.pageLeft lost).memory = s.memory ∧
    (s.pageLeft lost).config.header = s.config.header ∧ (s.pageLeft lost).config.banks = s.config.banks ∧
    (s.pageLeft lost).config.usable = s.config.usable ∧
    (s.pageLeft lost).config.signature = s.config.signature ∧
    (s.pageLeft lost).config.persistent = s.config.persistent ∧ (s.pageLeft lost).tracker = s.tracker ∧
    (s.pageLeft lost).seq = s.seq ∧ (s.pageLeft lost).steam = s.steam ∧
        (s.pageLeft lost).closing = s.closing ∧
    (s.pageLeft lost).verdicts = s.verdicts ∧ (s.pageLeft lost).link = s.link ∧
    (s.pageLeft lost).transit = s.transit ∧ (s.pageLeft lost).reject = s.reject := by
  suffices h : ∀ u, s.pageLeft lost = u → u.pending = s.pending ∧ u.timeBase = s.timeBase ∧
      u.pins = s.pins ∧ u.node = s.node ∧ u.memory = s.memory ∧
    u.config.header = s.config.header ∧ u.config.banks = s.config.banks ∧ u.config.usable = s.config.usable ∧
    u.config.signature = s.config.signature ∧ u.config.persistent = s.config.persistent ∧
    u.tracker = s.tracker ∧ u.seq = s.seq ∧ u.steam = s.steam ∧ u.closing = s.closing ∧
    u.verdicts = s.verdicts ∧ u.link = s.link ∧ u.transit = s.transit ∧ u.reject = s.reject from h _ rfl
  intro u hu
  simp only [State.pageLeft] at hu
  (repeat' split at hu) <;> subst hu <;> simp

@[simp] theorem State.joinQueue_frame (s : State) (n : Notice) :
    (s.joinQueue n).pending = s.pending ∧ (s.joinQueue n).timeBase = s.timeBase ∧
    (s.joinQueue n).pins = s.pins ∧ (s.joinQueue n).node = s.node ∧ (s.joinQueue n).memory = s.memory ∧
    (s.joinQueue n).config.header = s.config.header ∧ (s.joinQueue n).config.banks = s.config.banks ∧
    (s.joinQueue n).config.usable = s.config.usable ∧ (s.joinQueue n).config.signature = s.config.signature ∧
    (s.joinQueue n).config.persistent = s.config.persistent ∧ (s.joinQueue n).tracker = s.tracker ∧
    (s.joinQueue n).seq = s.seq ∧ (s.joinQueue n).steam = s.steam ∧ (s.joinQueue n).closing = s.closing ∧
    (s.joinQueue n).verdicts = s.verdicts ∧ (s.joinQueue n).transit = s.transit ∧
    (s.joinQueue n).reject = s.reject := by
  suffices h : ∀ u, s.joinQueue n = u → u.pending = s.pending ∧ u.timeBase = s.timeBase ∧ u.pins = s.pins ∧
      u.node = s.node ∧ u.memory = s.memory ∧
    u.config.header = s.config.header ∧ u.config.banks = s.config.banks ∧ u.config.usable = s.config.usable ∧
    u.config.signature = s.config.signature ∧ u.config.persistent = s.config.persistent ∧
    u.tracker = s.tracker ∧ u.seq = s.seq ∧ u.steam = s.steam ∧ u.closing = s.closing ∧
    u.verdicts = s.verdicts ∧ u.transit = s.transit ∧ u.reject = s.reject from h _ rfl
  intro u hu
  simp only [State.joinQueue] at hu
  (repeat' split at hu) <;> subst hu <;> simp

@[simp] theorem State.offer_frame (s : State) (n : Notice) :
    (s.offer n).pending = s.pending ∧ (s.offer n).timeBase = s.timeBase ∧ (s.offer n).pins = s.pins ∧
    (s.offer n).node = s.node ∧ (s.offer n).memory = s.memory ∧ (s.offer n).config.header = s.config.header ∧
    (s.offer n).config.banks = s.config.banks ∧ (s.offer n).config.usable = s.config.usable ∧
    (s.offer n).config.signature = s.config.signature ∧ (s.offer n).config.persistent = s.config.persistent ∧
    (s.offer n).tracker = s.tracker ∧ (s.offer n).seq = s.seq ∧ (s.offer n).steam = s.steam ∧
    (s.offer n).closing = s.closing ∧ (s.offer n).verdicts = s.verdicts ∧ (s.offer n).transit = s.transit ∧
    (s.offer n).reject = s.reject := by
  suffices h : ∀ u, s.offer n = u → u.pending = s.pending ∧ u.timeBase = s.timeBase ∧ u.pins = s.pins ∧
      u.node = s.node ∧ u.memory = s.memory ∧
    u.config.header = s.config.header ∧ u.config.banks = s.config.banks ∧ u.config.usable = s.config.usable ∧
    u.config.signature = s.config.signature ∧ u.config.persistent = s.config.persistent ∧
    u.tracker = s.tracker ∧ u.seq = s.seq ∧ u.steam = s.steam ∧ u.closing = s.closing ∧
    u.verdicts = s.verdicts ∧ u.transit = s.transit ∧ u.reject = s.reject from h _ rfl
  intro u hu
  simp only [State.offer] at hu
  (repeat' split at hu) <;> subst hu <;> simp

@[simp] theorem State.enterMute_frame (s : State) :
    (s.enterMute).pending = s.pending ∧ (s.enterMute).timeBase = s.timeBase ∧ (s.enterMute).pins = s.pins ∧
    (s.enterMute).node = s.node ∧ (s.enterMute).memory = s.memory ∧
    (s.enterMute).config.header = s.config.header ∧ (s.enterMute).config.banks = s.config.banks ∧
    (s.enterMute).config.usable = s.config.usable ∧ (s.enterMute).config.signature = s.config.signature ∧
    (s.enterMute).config.persistent = s.config.persistent ∧ (s.enterMute).tracker = s.tracker ∧
    (s.enterMute).seq = s.seq ∧ (s.enterMute).steam = s.steam ∧ (s.enterMute).closing = s.closing ∧
    (s.enterMute).verdicts = s.verdicts ∧ (s.enterMute).transit = s.transit ∧
    (s.enterMute).reject = s.reject := by
  have h : ∀ (q : List QueueEntry) (s : State),
      (q.foldl (fun s _ => s.pageLeft true) s).pending = s.pending ∧
      (q.foldl (fun s _ => s.pageLeft true) s).timeBase = s.timeBase ∧
      (q.foldl (fun s _ => s.pageLeft true) s).pins = s.pins ∧
      (q.foldl (fun s _ => s.pageLeft true) s).node = s.node ∧
      (q.foldl (fun s _ => s.pageLeft true) s).memory = s.memory ∧
      (q.foldl (fun s _ => s.pageLeft true) s).config.header = s.config.header ∧
      (q.foldl (fun s _ => s.pageLeft true) s).config.banks = s.config.banks ∧
      (q.foldl (fun s _ => s.pageLeft true) s).config.usable = s.config.usable ∧
      (q.foldl (fun s _ => s.pageLeft true) s).config.signature = s.config.signature ∧
      (q.foldl (fun s _ => s.pageLeft true) s).config.persistent = s.config.persistent ∧
      (q.foldl (fun s _ => s.pageLeft true) s).tracker = s.tracker ∧
      (q.foldl (fun s _ => s.pageLeft true) s).seq = s.seq ∧
      (q.foldl (fun s _ => s.pageLeft true) s).steam = s.steam ∧
      (q.foldl (fun s _ => s.pageLeft true) s).closing = s.closing ∧
      (q.foldl (fun s _ => s.pageLeft true) s).verdicts = s.verdicts ∧
      (q.foldl (fun s _ => s.pageLeft true) s).transit = s.transit ∧
      (q.foldl (fun s _ => s.pageLeft true) s).reject = s.reject := by
    intro q
    induction q with
    | nil => intro s; simp
    | cons x q ih =>
      intro s
      simp only [List.foldl_cons, ih]
      simp
  simp [State.enterMute, h]

@[simp] theorem State.frameOver_frame (s : State) :
    (s.frameOver).pending = s.pending ∧ (s.frameOver).timeBase = s.timeBase ∧ (s.frameOver).pins = s.pins ∧
    (s.frameOver).node = s.node ∧ (s.frameOver).memory = s.memory ∧
    (s.frameOver).config.header = s.config.header ∧ (s.frameOver).config.banks = s.config.banks ∧
    (s.frameOver).config.usable = s.config.usable ∧ (s.frameOver).config.signature = s.config.signature ∧
    (s.frameOver).config.persistent = s.config.persistent ∧ (s.frameOver).tracker = s.tracker ∧
    (s.frameOver).seq = s.seq ∧ (s.frameOver).steam = s.steam ∧ (s.frameOver).closing = s.closing ∧
    (s.frameOver).verdicts = s.verdicts ∧ (s.frameOver).transit = s.transit ∧
    (s.frameOver).reject = s.reject := by
  suffices h : ∀ u, s.frameOver = u → u.pending = s.pending ∧ u.timeBase = s.timeBase ∧ u.pins = s.pins ∧
      u.node = s.node ∧ u.memory = s.memory ∧
    u.config.header = s.config.header ∧ u.config.banks = s.config.banks ∧ u.config.usable = s.config.usable ∧
    u.config.signature = s.config.signature ∧ u.config.persistent = s.config.persistent ∧
    u.tracker = s.tracker ∧ u.seq = s.seq ∧ u.steam = s.steam ∧ u.closing = s.closing ∧
    u.verdicts = s.verdicts ∧ u.transit = s.transit ∧ u.reject = s.reject from h _ rfl
  intro u hu
  simp only [State.frameOver] at hu
  (repeat' split at hu) <;> subst hu <;> simp

@[simp] theorem State.takeDuplicate_frame (s : State) :
    (s.takeDuplicate).pending = s.pending ∧ (s.takeDuplicate).timeBase = s.timeBase ∧
    (s.takeDuplicate).pins = s.pins ∧ (s.takeDuplicate).node = s.node ∧ (s.takeDuplicate).memory = s.memory ∧
    (s.takeDuplicate).config.header = s.config.header ∧ (s.takeDuplicate).config.banks = s.config.banks ∧
    (s.takeDuplicate).config.usable = s.config.usable ∧
    (s.takeDuplicate).config.signature = s.config.signature ∧
    (s.takeDuplicate).config.persistent = s.config.persistent ∧ (s.takeDuplicate).tracker = s.tracker ∧
    (s.takeDuplicate).seq = s.seq ∧ (s.takeDuplicate).steam = s.steam ∧
        (s.takeDuplicate).closing = s.closing ∧
    (s.takeDuplicate).verdicts = s.verdicts ∧ (s.takeDuplicate).transit = s.transit ∧
    (s.takeDuplicate).reject = s.reject := by
  suffices h : ∀ u, s.takeDuplicate = u → u.pending = s.pending ∧ u.timeBase = s.timeBase ∧
      u.pins = s.pins ∧ u.node = s.node ∧ u.memory = s.memory ∧
    u.config.header = s.config.header ∧ u.config.banks = s.config.banks ∧ u.config.usable = s.config.usable ∧
    u.config.signature = s.config.signature ∧ u.config.persistent = s.config.persistent ∧
    u.tracker = s.tracker ∧ u.seq = s.seq ∧ u.steam = s.steam ∧ u.closing = s.closing ∧
    u.verdicts = s.verdicts ∧ u.transit = s.transit ∧ u.reject = s.reject from h _ rfl
  intro u hu
  simp only [State.takeDuplicate] at hu
  (repeat' split at hu) <;> subst hu <;> simp

@[simp] theorem State.closeFlush_frame (s : State) (cause : FlushEnd) :
    (s.closeFlush cause).pending = s.pending ∧ (s.closeFlush cause).timeBase = s.timeBase ∧
    (s.closeFlush cause).pins = s.pins ∧ (s.closeFlush cause).node = s.node ∧
    (s.closeFlush cause).memory = s.memory ∧ (s.closeFlush cause).config = s.config ∧
    (s.closeFlush cause).tracker = s.tracker ∧ (s.closeFlush cause).closing = s.closing ∧
    (s.closeFlush cause).verdicts = s.verdicts ∧ (s.closeFlush cause).link = s.link ∧
    (s.closeFlush cause).transit = s.transit ∧ (s.closeFlush cause).reject = s.reject := by
  suffices h : ∀ u, s.closeFlush cause = u → u.pending = s.pending ∧ u.timeBase = s.timeBase ∧
      u.pins = s.pins ∧ u.node = s.node ∧ u.memory = s.memory ∧
    u.config = s.config ∧ u.tracker = s.tracker ∧ u.closing = s.closing ∧ u.verdicts = s.verdicts ∧
    u.link = s.link ∧ u.transit = s.transit ∧ u.reject = s.reject from h _ rfl
  intro u hu
  simp only [State.closeFlush] at hu
  (repeat' split at hu) <;> subst hu <;> simp

@[simp] theorem State.shutValve_frame (s : State) :
    (s.shutValve).pending = s.pending ∧ (s.shutValve).timeBase = s.timeBase ∧ (s.shutValve).pins = s.pins ∧
    (s.shutValve).node = s.node ∧ (s.shutValve).memory = s.memory ∧
    (s.shutValve).config.header = s.config.header ∧ (s.shutValve).config.banks = s.config.banks ∧
    (s.shutValve).config.usable = s.config.usable ∧ (s.shutValve).config.signature = s.config.signature ∧
    (s.shutValve).config.persistent = s.config.persistent ∧ (s.shutValve).tracker = s.tracker ∧
    (s.shutValve).seq = s.seq ∧ (s.shutValve).closing = s.closing ∧ (s.shutValve).verdicts = s.verdicts ∧
    (s.shutValve).transit = s.transit ∧ (s.shutValve).reject = s.reject := by
  suffices h : ∀ u, s.shutValve = u → u.pending = s.pending ∧ u.timeBase = s.timeBase ∧ u.pins = s.pins ∧
      u.node = s.node ∧ u.memory = s.memory ∧
    u.config.header = s.config.header ∧ u.config.banks = s.config.banks ∧ u.config.usable = s.config.usable ∧
    u.config.signature = s.config.signature ∧ u.config.persistent = s.config.persistent ∧
    u.tracker = s.tracker ∧ u.seq = s.seq ∧ u.closing = s.closing ∧ u.verdicts = s.verdicts ∧
    u.transit = s.transit ∧ u.reject = s.reject from h _ rfl
  intro u hu
  simp only [State.shutValve] at hu
  (repeat' split at hu) <;> subst hu <;> simp

@[simp] theorem State.shutRequest_frame (s : State) (cause : FlushEnd) :
    (s.shutRequest cause).pending = s.pending ∧ (s.shutRequest cause).timeBase = s.timeBase ∧
    (s.shutRequest cause).pins = s.pins ∧ (s.shutRequest cause).node = s.node ∧
    (s.shutRequest cause).memory = s.memory ∧ (s.shutRequest cause).config.header = s.config.header ∧
    (s.shutRequest cause).config.banks = s.config.banks ∧
    (s.shutRequest cause).config.usable = s.config.usable ∧
    (s.shutRequest cause).config.signature = s.config.signature ∧
    (s.shutRequest cause).config.persistent = s.config.persistent ∧
        (s.shutRequest cause).tracker = s.tracker ∧
    (s.shutRequest cause).closing = s.closing ∧ (s.shutRequest cause).verdicts = s.verdicts ∧
    (s.shutRequest cause).transit = s.transit ∧ (s.shutRequest cause).reject = s.reject := by
  suffices h : ∀ u, s.shutRequest cause = u → u.pending = s.pending ∧ u.timeBase = s.timeBase ∧
      u.pins = s.pins ∧ u.node = s.node ∧ u.memory = s.memory ∧
    u.config.header = s.config.header ∧ u.config.banks = s.config.banks ∧ u.config.usable = s.config.usable ∧
    u.config.signature = s.config.signature ∧ u.config.persistent = s.config.persistent ∧
    u.tracker = s.tracker ∧ u.closing = s.closing ∧ u.verdicts = s.verdicts ∧ u.transit = s.transit ∧
    u.reject = s.reject from h _ rfl
  intro u hu
  simp only [State.shutRequest] at hu
  (repeat' split at hu) <;> subst hu <;> simp

@[simp] theorem State.enterOpen_frame (s : State) :
    (s.enterOpen).pending = s.pending ∧ (s.enterOpen).timeBase = s.timeBase ∧ (s.enterOpen).pins = s.pins ∧
    (s.enterOpen).node = s.node ∧ (s.enterOpen).memory = s.memory ∧
    (s.enterOpen).config.header = s.config.header ∧ (s.enterOpen).config.banks = s.config.banks ∧
    (s.enterOpen).config.usable = s.config.usable ∧ (s.enterOpen).config.signature = s.config.signature ∧
    (s.enterOpen).config.persistent = s.config.persistent ∧ (s.enterOpen).tracker = s.tracker ∧
    (s.enterOpen).seq = s.seq ∧ (s.enterOpen).closing = s.closing ∧ (s.enterOpen).verdicts = s.verdicts ∧
    (s.enterOpen).transit = s.transit ∧ (s.enterOpen).reject = s.reject := by
  simp [State.enterOpen]

@[simp] theorem State.openRequest_frame (s : State) (t : Nat) :
    (s.openRequest t).pending = s.pending ∧ (s.openRequest t).timeBase = s.timeBase ∧
    (s.openRequest t).pins = s.pins ∧ (s.openRequest t).node = s.node ∧ (s.openRequest t).memory = s.memory ∧
    (s.openRequest t).config.header = s.config.header ∧ (s.openRequest t).config.banks = s.config.banks ∧
    (s.openRequest t).config.usable = s.config.usable ∧
    (s.openRequest t).config.signature = s.config.signature ∧
    (s.openRequest t).config.persistent = s.config.persistent ∧ (s.openRequest t).tracker = s.tracker ∧
    (s.openRequest t).closing = s.closing ∧ (s.openRequest t).verdicts = s.verdicts ∧
    (s.openRequest t).transit = s.transit ∧ (s.openRequest t).reject = s.reject := by
  suffices h : ∀ u, s.openRequest t = u → u.pending = s.pending ∧ u.timeBase = s.timeBase ∧
      u.pins = s.pins ∧ u.node = s.node ∧ u.memory = s.memory ∧
    u.config.header = s.config.header ∧ u.config.banks = s.config.banks ∧ u.config.usable = s.config.usable ∧
    u.config.signature = s.config.signature ∧ u.config.persistent = s.config.persistent ∧
    u.tracker = s.tracker ∧ u.closing = s.closing ∧ u.verdicts = s.verdicts ∧ u.transit = s.transit ∧
    u.reject = s.reject from h _ rfl
  intro u hu
  simp only [State.openRequest] at hu
  (repeat' split at hu) <;> subst hu <;> simp

@[simp] theorem State.markValveFault_frame (s : State) :
    (s.markValveFault).pending = s.pending ∧ (s.markValveFault).timeBase = s.timeBase ∧
    (s.markValveFault).pins = s.pins ∧ (s.markValveFault).node = s.node ∧
    (s.markValveFault).memory = s.memory ∧ (s.markValveFault).config.header = s.config.header ∧
    (s.markValveFault).config.banks = s.config.banks ∧ (s.markValveFault).config.usable = s.config.usable ∧
    (s.markValveFault).config.signature = s.config.signature ∧
    (s.markValveFault).config.persistent = s.config.persistent ∧ (s.markValveFault).tracker = s.tracker ∧
    (s.markValveFault).steam = s.steam ∧ (s.markValveFault).closing = s.closing ∧
    (s.markValveFault).verdicts = s.verdicts ∧ (s.markValveFault).link = s.link ∧
    (s.markValveFault).transit = s.transit ∧ (s.markValveFault).reject = s.reject := by
  suffices h : ∀ u, s.markValveFault = u → u.pending = s.pending ∧ u.timeBase = s.timeBase ∧
      u.pins = s.pins ∧ u.node = s.node ∧ u.memory = s.memory ∧
    u.config.header = s.config.header ∧ u.config.banks = s.config.banks ∧ u.config.usable = s.config.usable ∧
    u.config.signature = s.config.signature ∧ u.config.persistent = s.config.persistent ∧
    u.tracker = s.tracker ∧ u.steam = s.steam ∧ u.closing = s.closing ∧ u.verdicts = s.verdicts ∧
    u.link = s.link ∧ u.transit = s.transit ∧ u.reject = s.reject from h _ rfl
  intro u hu
  simp only [State.markValveFault] at hu
  (repeat' split at hu) <;> subst hu <;> simp

@[simp] theorem State.enterFaultShut_frame (s : State) :
    (s.enterFaultShut).pending = s.pending ∧ (s.enterFaultShut).timeBase = s.timeBase ∧
    (s.enterFaultShut).pins = s.pins ∧ (s.enterFaultShut).node = s.node ∧
    (s.enterFaultShut).memory = s.memory ∧ (s.enterFaultShut).config.header = s.config.header ∧
    (s.enterFaultShut).config.banks = s.config.banks ∧ (s.enterFaultShut).config.usable = s.config.usable ∧
    (s.enterFaultShut).config.signature = s.config.signature ∧
    (s.enterFaultShut).config.persistent = s.config.persistent ∧ (s.enterFaultShut).tracker = s.tracker ∧
    (s.enterFaultShut).closing = s.closing ∧ (s.enterFaultShut).verdicts = s.verdicts ∧
    (s.enterFaultShut).transit = s.transit ∧ (s.enterFaultShut).reject = s.reject := by
  suffices h : ∀ u, s.enterFaultShut = u → u.pending = s.pending ∧ u.timeBase = s.timeBase ∧
      u.pins = s.pins ∧ u.node = s.node ∧ u.memory = s.memory ∧
    u.config.header = s.config.header ∧ u.config.banks = s.config.banks ∧ u.config.usable = s.config.usable ∧
    u.config.signature = s.config.signature ∧ u.config.persistent = s.config.persistent ∧
    u.tracker = s.tracker ∧ u.closing = s.closing ∧ u.verdicts = s.verdicts ∧ u.transit = s.transit ∧
    u.reject = s.reject from h _ rfl
  intro u hu
  simp only [State.enterFaultShut] at hu
  (repeat' split at hu) <;> subst hu <;> simp

@[simp] theorem State.enterFaultOpen_frame (s : State) :
    (s.enterFaultOpen).pending = s.pending ∧ (s.enterFaultOpen).timeBase = s.timeBase ∧
    (s.enterFaultOpen).pins = s.pins ∧ (s.enterFaultOpen).node = s.node ∧
    (s.enterFaultOpen).memory = s.memory ∧ (s.enterFaultOpen).config.header = s.config.header ∧
    (s.enterFaultOpen).config.banks = s.config.banks ∧ (s.enterFaultOpen).config.usable = s.config.usable ∧
    (s.enterFaultOpen).config.signature = s.config.signature ∧
    (s.enterFaultOpen).config.persistent = s.config.persistent ∧ (s.enterFaultOpen).tracker = s.tracker ∧
    (s.enterFaultOpen).closing = s.closing ∧ (s.enterFaultOpen).verdicts = s.verdicts ∧
    (s.enterFaultOpen).transit = s.transit ∧ (s.enterFaultOpen).reject = s.reject := by
  suffices h : ∀ u, s.enterFaultOpen = u → u.pending = s.pending ∧ u.timeBase = s.timeBase ∧
      u.pins = s.pins ∧ u.node = s.node ∧ u.memory = s.memory ∧
    u.config.header = s.config.header ∧ u.config.banks = s.config.banks ∧ u.config.usable = s.config.usable ∧
    u.config.signature = s.config.signature ∧ u.config.persistent = s.config.persistent ∧
    u.tracker = s.tracker ∧ u.closing = s.closing ∧ u.verdicts = s.verdicts ∧ u.transit = s.transit ∧
    u.reject = s.reject from h _ rfl
  intro u hu
  simp only [State.enterFaultOpen] at hu
  (repeat' split at hu) <;> subst hu <;> simp

@[simp] theorem State.clearFault_frame (s : State) :
    (s.clearFault).pending = s.pending ∧ (s.clearFault).timeBase = s.timeBase ∧ (s.clearFault).pins = s.pins ∧
    (s.clearFault).node = s.node ∧ (s.clearFault).memory = s.memory ∧
    (s.clearFault).config.header = s.config.header ∧ (s.clearFault).config.banks = s.config.banks ∧
    (s.clearFault).config.usable = s.config.usable ∧ (s.clearFault).config.signature = s.config.signature ∧
    (s.clearFault).config.persistent = s.config.persistent ∧ (s.clearFault).tracker = s.tracker ∧
    (s.clearFault).seq = s.seq ∧ (s.clearFault).closing = s.closing ∧ (s.clearFault).verdicts = s.verdicts ∧
    (s.clearFault).transit = s.transit ∧ (s.clearFault).reject = s.reject := by
  simp [State.clearFault]

@[simp] theorem State.clearFaultShut_frame (s : State) :
    (s.clearFaultShut).pending = s.pending ∧ (s.clearFaultShut).timeBase = s.timeBase ∧
    (s.clearFaultShut).pins = s.pins ∧ (s.clearFaultShut).node = s.node ∧
    (s.clearFaultShut).memory = s.memory ∧ (s.clearFaultShut).config.header = s.config.header ∧
    (s.clearFaultShut).config.banks = s.config.banks ∧ (s.clearFaultShut).config.usable = s.config.usable ∧
    (s.clearFaultShut).config.signature = s.config.signature ∧
    (s.clearFaultShut).config.persistent = s.config.persistent ∧ (s.clearFaultShut).tracker = s.tracker ∧
    (s.clearFaultShut).seq = s.seq ∧ (s.clearFaultShut).closing = s.closing ∧
    (s.clearFaultShut).verdicts = s.verdicts ∧ (s.clearFaultShut).transit = s.transit ∧
    (s.clearFaultShut).reject = s.reject := by
  suffices h : ∀ u, s.clearFaultShut = u → u.pending = s.pending ∧ u.timeBase = s.timeBase ∧
      u.pins = s.pins ∧ u.node = s.node ∧ u.memory = s.memory ∧
    u.config.header = s.config.header ∧ u.config.banks = s.config.banks ∧ u.config.usable = s.config.usable ∧
    u.config.signature = s.config.signature ∧ u.config.persistent = s.config.persistent ∧
    u.tracker = s.tracker ∧ u.seq = s.seq ∧ u.closing = s.closing ∧ u.verdicts = s.verdicts ∧
    u.transit = s.transit ∧ u.reject = s.reject from h _ rfl
  intro u hu
  simp only [State.clearFaultShut] at hu
  (repeat' split at hu) <;> subst hu <;> simp

@[simp] theorem State.feedbackChanged_frame (s : State) :
    (s.feedbackChanged).pending = s.pending ∧ (s.feedbackChanged).timeBase = s.timeBase ∧
    (s.feedbackChanged).pins = s.pins ∧ (s.feedbackChanged).node = s.node ∧
    (s.feedbackChanged).memory = s.memory ∧ (s.feedbackChanged).config.header = s.config.header ∧
    (s.feedbackChanged).config.banks = s.config.banks ∧ (s.feedbackChanged).config.usable = s.config.usable ∧
    (s.feedbackChanged).config.signature = s.config.signature ∧
    (s.feedbackChanged).config.persistent = s.config.persistent ∧ (s.feedbackChanged).tracker = s.tracker ∧
    (s.feedbackChanged).seq = s.seq ∧ (s.feedbackChanged).closing = s.closing ∧
    (s.feedbackChanged).verdicts = s.verdicts ∧ (s.feedbackChanged).transit = s.transit ∧
    (s.feedbackChanged).reject = s.reject := by
  suffices h : ∀ u, s.feedbackChanged = u → u.pending = s.pending ∧ u.timeBase = s.timeBase ∧
      u.pins = s.pins ∧ u.node = s.node ∧ u.memory = s.memory ∧
    u.config.header = s.config.header ∧ u.config.banks = s.config.banks ∧ u.config.usable = s.config.usable ∧
    u.config.signature = s.config.signature ∧ u.config.persistent = s.config.persistent ∧
    u.tracker = s.tracker ∧ u.seq = s.seq ∧ u.closing = s.closing ∧ u.verdicts = s.verdicts ∧
    u.transit = s.transit ∧ u.reject = s.reject from h _ rfl
  intro u hu
  simp only [State.feedbackChanged] at hu
  (repeat' split at hu) <;> subst hu <;> simp

@[simp] theorem State.settleExpired_frame (s : State) :
    (s.settleExpired).pending = s.pending ∧ (s.settleExpired).timeBase = s.timeBase ∧
    (s.settleExpired).pins = s.pins ∧ (s.settleExpired).node = s.node ∧ (s.settleExpired).memory = s.memory ∧
    (s.settleExpired).config.header = s.config.header ∧ (s.settleExpired).config.banks = s.config.banks ∧
    (s.settleExpired).config.usable = s.config.usable ∧
    (s.settleExpired).config.signature = s.config.signature ∧
    (s.settleExpired).config.persistent = s.config.persistent ∧ (s.settleExpired).tracker = s.tracker ∧
    (s.settleExpired).closing = s.closing ∧ (s.settleExpired).verdicts = s.verdicts ∧
    (s.settleExpired).transit = s.transit ∧ (s.settleExpired).reject = s.reject := by
  suffices h : ∀ u, s.settleExpired = u → u.pending = s.pending ∧ u.timeBase = s.timeBase ∧
      u.pins = s.pins ∧ u.node = s.node ∧ u.memory = s.memory ∧
    u.config.header = s.config.header ∧ u.config.banks = s.config.banks ∧ u.config.usable = s.config.usable ∧
    u.config.signature = s.config.signature ∧ u.config.persistent = s.config.persistent ∧
    u.tracker = s.tracker ∧ u.closing = s.closing ∧ u.verdicts = s.verdicts ∧ u.transit = s.transit ∧
    u.reject = s.reject from h _ rfl
  intro u hu
  simp only [State.settleExpired] at hu
  (repeat' split at hu) <;> subst hu <;> simp

@[simp] theorem State.setRoster_frame (s : State) (peer : Nat) (st : RosterState) :
    (s.setRoster peer st).pending = s.pending ∧ (s.setRoster peer st).timeBase = s.timeBase ∧
    (s.setRoster peer st).pins = s.pins ∧ (s.setRoster peer st).node = s.node ∧
    (s.setRoster peer st).memory = s.memory ∧ (s.setRoster peer st).config = s.config ∧
    (s.setRoster peer st).counters = s.counters ∧ (s.setRoster peer st).tracker = s.tracker ∧
    (s.setRoster peer st).seq = s.seq ∧ (s.setRoster peer st).closing = s.closing ∧
    (s.setRoster peer st).verdicts = s.verdicts ∧ (s.setRoster peer st).link = s.link ∧
    (s.setRoster peer st).transit = s.transit ∧ (s.setRoster peer st).reject = s.reject := by
  simp [State.setRoster]

@[simp] theorem State.takeTick_frame (s : State) (due : Time) :
    (s.takeTick due).pending = s.pending ∧ (s.takeTick due).timeBase = s.timeBase ∧
    (s.takeTick due).pins = s.pins ∧ (s.takeTick due).node = s.node ∧ (s.takeTick due).memory = s.memory ∧
    (s.takeTick due).config.header = s.config.header ∧ (s.takeTick due).config.banks = s.config.banks ∧
    (s.takeTick due).config.usable = s.config.usable ∧
        (s.takeTick due).config.signature = s.config.signature ∧
    (s.takeTick due).config.persistent = s.config.persistent ∧ (s.takeTick due).tracker = s.tracker ∧
    (s.takeTick due).closing = s.closing ∧ (s.takeTick due).verdicts = s.verdicts ∧
    (s.takeTick due).transit = s.transit ∧ (s.takeTick due).reject = s.reject := by
  suffices h : ∀ u, s.takeTick due = u → u.pending = s.pending ∧ u.timeBase = s.timeBase ∧ u.pins = s.pins ∧
      u.node = s.node ∧ u.memory = s.memory ∧
    u.config.header = s.config.header ∧ u.config.banks = s.config.banks ∧ u.config.usable = s.config.usable ∧
    u.config.signature = s.config.signature ∧ u.config.persistent = s.config.persistent ∧
    u.tracker = s.tracker ∧ u.closing = s.closing ∧ u.verdicts = s.verdicts ∧ u.transit = s.transit ∧
    u.reject = s.reject from h _ rfl
  intro u hu
  simp only [State.takeTick] at hu
  (repeat' split at hu) <;> subst hu <;> simp

@[simp] theorem State.detach_frame (s : State) :
    (s.detach).pending = s.pending ∧ (s.detach).timeBase = s.timeBase ∧ (s.detach).pins = s.pins ∧
    (s.detach).node = s.node ∧ (s.detach).memory = s.memory ∧ (s.detach).config = s.config ∧
    (s.detach).counters = s.counters ∧ (s.detach).tracker = s.tracker ∧ (s.detach).seq = s.seq ∧
    (s.detach).closing = s.closing ∧ (s.detach).verdicts = s.verdicts ∧ (s.detach).link = s.link ∧
    (s.detach).transit = s.transit ∧ (s.detach).reject = s.reject := by
  suffices h : ∀ u, s.detach = u → u.pending = s.pending ∧ u.timeBase = s.timeBase ∧ u.pins = s.pins ∧
      u.node = s.node ∧ u.memory = s.memory ∧
    u.config = s.config ∧ u.counters = s.counters ∧ u.tracker = s.tracker ∧ u.seq = s.seq ∧
    u.closing = s.closing ∧ u.verdicts = s.verdicts ∧ u.link = s.link ∧ u.transit = s.transit ∧
    u.reject = s.reject from h _ rfl
  intro u hu
  simp only [State.detach] at hu
  (repeat' split at hu) <;> subst hu <;> simp

@[simp] theorem State.countUnanswered_frame (s : State) (n : Nat) :
    (s.countUnanswered n).pending = s.pending ∧ (s.countUnanswered n).timeBase = s.timeBase ∧
    (s.countUnanswered n).pins = s.pins ∧ (s.countUnanswered n).node = s.node ∧
    (s.countUnanswered n).memory = s.memory ∧ (s.countUnanswered n).config = s.config ∧
    (s.countUnanswered n).tracker = s.tracker ∧ (s.countUnanswered n).seq = s.seq ∧
    (s.countUnanswered n).steam = s.steam ∧ (s.countUnanswered n).closing = s.closing ∧
    (s.countUnanswered n).verdicts = s.verdicts ∧ (s.countUnanswered n).link = s.link ∧
    (s.countUnanswered n).transit = s.transit ∧ (s.countUnanswered n).reject = s.reject := by
  simp [State.countUnanswered]

@[simp] theorem State.addSummary_frame (s : State) (e : Summary) :
    (s.addSummary e).pending = s.pending ∧ (s.addSummary e).timeBase = s.timeBase ∧
    (s.addSummary e).pins = s.pins ∧ (s.addSummary e).node = s.node ∧ (s.addSummary e).memory = s.memory ∧
    (s.addSummary e).config = s.config ∧ (s.addSummary e).tracker = s.tracker ∧ (s.addSummary e).seq = s.seq ∧
    (s.addSummary e).steam = s.steam ∧ (s.addSummary e).closing = s.closing ∧ (s.addSummary e).link = s.link ∧
    (s.addSummary e).transit = s.transit ∧ (s.addSummary e).reject = s.reject := by
  suffices h : ∀ u, s.addSummary e = u → u.pending = s.pending ∧ u.timeBase = s.timeBase ∧ u.pins = s.pins ∧
      u.node = s.node ∧ u.memory = s.memory ∧
    u.config = s.config ∧ u.tracker = s.tracker ∧ u.seq = s.seq ∧ u.steam = s.steam ∧ u.closing = s.closing ∧
    u.link = s.link ∧ u.transit = s.transit ∧ u.reject = s.reject from h _ rfl
  intro u hu
  simp only [State.addSummary] at hu
  (repeat' split at hu) <;> subst hu <;> simp

@[simp] theorem State.forgetAwaited_frame (s : State) :
    (s.forgetAwaited).pending = s.pending ∧ (s.forgetAwaited).timeBase = s.timeBase ∧
    (s.forgetAwaited).pins = s.pins ∧ (s.forgetAwaited).node = s.node ∧ (s.forgetAwaited).memory = s.memory ∧
    (s.forgetAwaited).config = s.config ∧ (s.forgetAwaited).tracker = s.tracker ∧
    (s.forgetAwaited).seq = s.seq ∧ (s.forgetAwaited).steam = s.steam ∧
        (s.forgetAwaited).closing = s.closing ∧
    (s.forgetAwaited).link = s.link ∧ (s.forgetAwaited).transit = s.transit ∧
    (s.forgetAwaited).reject = s.reject := by
  simp [State.forgetAwaited]

@[simp] theorem State.recover_frame (s : State) (b : BankId) :
    (s.recover b).pending = s.pending ∧ (s.recover b).timeBase = s.timeBase ∧ (s.recover b).pins = s.pins ∧
    (s.recover b).node = s.node ∧ (s.recover b).memory = s.memory ∧
    (s.recover b).config.header = s.config.header ∧ (s.recover b).config.banks = s.config.banks ∧
    (s.recover b).config.usable = s.config.usable ∧ (s.recover b).config.signature = s.config.signature ∧
    (s.recover b).config.persistent = s.config.persistent ∧ (s.recover b).tracker = s.tracker ∧
    (s.recover b).seq = s.seq ∧ (s.recover b).steam = s.steam ∧ (s.recover b).closing = s.closing ∧
    (s.recover b).transit = s.transit ∧ (s.recover b).reject = s.reject := by
  suffices h : ∀ u, s.recover b = u → u.pending = s.pending ∧ u.timeBase = s.timeBase ∧ u.pins = s.pins ∧
      u.node = s.node ∧ u.memory = s.memory ∧
    u.config.header = s.config.header ∧ u.config.banks = s.config.banks ∧ u.config.usable = s.config.usable ∧
    u.config.signature = s.config.signature ∧ u.config.persistent = s.config.persistent ∧
    u.tracker = s.tracker ∧ u.seq = s.seq ∧ u.steam = s.steam ∧ u.closing = s.closing ∧
        u.transit = s.transit ∧
    u.reject = s.reject from h _ rfl
  intro u hu
  simp only [State.recover] at hu
  (repeat' split at hu) <;> subst hu <;> simp

@[simp] theorem State.setTrim_frame (s : State) (b : BankId) (trim : Nat) :
    (s.setTrim b trim).pending = s.pending ∧ (s.setTrim b trim).timeBase = s.timeBase ∧
    (s.setTrim b trim).pins = s.pins ∧ (s.setTrim b trim).node = s.node ∧
    (s.setTrim b trim).memory = s.memory ∧ (s.setTrim b trim).config.header = s.config.header ∧
    (s.setTrim b trim).config.banks = s.config.banks ∧ (s.setTrim b trim).config.usable = s.config.usable ∧
    (s.setTrim b trim).config.signature = s.config.signature ∧
    (s.setTrim b trim).config.persistent = s.config.persistent ∧ (s.setTrim b trim).tracker = s.tracker ∧
    (s.setTrim b trim).seq = s.seq ∧ (s.setTrim b trim).steam = s.steam ∧
    (s.setTrim b trim).closing = s.closing ∧ (s.setTrim b trim).transit = s.transit ∧
    (s.setTrim b trim).reject = s.reject := by
  suffices h : ∀ u, s.setTrim b trim = u → u.pending = s.pending ∧ u.timeBase = s.timeBase ∧
      u.pins = s.pins ∧ u.node = s.node ∧ u.memory = s.memory ∧
    u.config.header = s.config.header ∧ u.config.banks = s.config.banks ∧ u.config.usable = s.config.usable ∧
    u.config.signature = s.config.signature ∧ u.config.persistent = s.config.persistent ∧
    u.tracker = s.tracker ∧ u.seq = s.seq ∧ u.steam = s.steam ∧ u.closing = s.closing ∧
        u.transit = s.transit ∧
    u.reject = s.reject from h _ rfl
  intro u hu
  simp only [State.setTrim] at hu
  (repeat' split at hu) <;> subst hu <;> simp

@[simp] theorem State.setDegraded_frame (s : State) (b : BankId) :
    (s.setDegraded b).pending = s.pending ∧ (s.setDegraded b).timeBase = s.timeBase ∧
    (s.setDegraded b).pins = s.pins ∧ (s.setDegraded b).node = s.node ∧ (s.setDegraded b).memory = s.memory ∧
    (s.setDegraded b).config.header = s.config.header ∧ (s.setDegraded b).config.banks = s.config.banks ∧
    (s.setDegraded b).config.usable = s.config.usable ∧
    (s.setDegraded b).config.signature = s.config.signature ∧
    (s.setDegraded b).config.persistent = s.config.persistent ∧ (s.setDegraded b).tracker = s.tracker ∧
    (s.setDegraded b).seq = s.seq ∧ (s.setDegraded b).steam = s.steam ∧
        (s.setDegraded b).closing = s.closing ∧
    (s.setDegraded b).transit = s.transit ∧ (s.setDegraded b).reject = s.reject := by
  suffices h : ∀ u, s.setDegraded b = u → u.pending = s.pending ∧ u.timeBase = s.timeBase ∧
      u.pins = s.pins ∧ u.node = s.node ∧ u.memory = s.memory ∧
    u.config.header = s.config.header ∧ u.config.banks = s.config.banks ∧ u.config.usable = s.config.usable ∧
    u.config.signature = s.config.signature ∧ u.config.persistent = s.config.persistent ∧
    u.tracker = s.tracker ∧ u.seq = s.seq ∧ u.steam = s.steam ∧ u.closing = s.closing ∧
        u.transit = s.transit ∧
    u.reject = s.reject from h _ rfl
  intro u hu
  simp only [State.setDegraded] at hu
  (repeat' split at hu) <;> subst hu <;> simp

@[simp] theorem State.setGoodRun_frame (s : State) (b : BankId) (n : Nat) :
    (s.setGoodRun b n).pending = s.pending ∧ (s.setGoodRun b n).timeBase = s.timeBase ∧
    (s.setGoodRun b n).pins = s.pins ∧ (s.setGoodRun b n).node = s.node ∧
    (s.setGoodRun b n).memory = s.memory ∧ (s.setGoodRun b n).config = s.config ∧
    (s.setGoodRun b n).counters = s.counters ∧ (s.setGoodRun b n).tracker = s.tracker ∧
    (s.setGoodRun b n).seq = s.seq ∧ (s.setGoodRun b n).steam = s.steam ∧
    (s.setGoodRun b n).closing = s.closing ∧ (s.setGoodRun b n).link = s.link ∧
    (s.setGoodRun b n).transit = s.transit ∧ (s.setGoodRun b n).reject = s.reject := by
  simp [State.setGoodRun]

@[simp] theorem State.lowResult_frame (s : State) (b : BankId) :
    (s.lowResult b).pending = s.pending ∧ (s.lowResult b).timeBase = s.timeBase ∧
    (s.lowResult b).pins = s.pins ∧ (s.lowResult b).node = s.node ∧ (s.lowResult b).memory = s.memory ∧
    (s.lowResult b).config.header = s.config.header ∧ (s.lowResult b).config.banks = s.config.banks ∧
    (s.lowResult b).config.usable = s.config.usable ∧ (s.lowResult b).config.signature = s.config.signature ∧
    (s.lowResult b).config.persistent = s.config.persistent ∧ (s.lowResult b).tracker = s.tracker ∧
    (s.lowResult b).seq = s.seq ∧ (s.lowResult b).steam = s.steam ∧ (s.lowResult b).closing = s.closing ∧
    (s.lowResult b).transit = s.transit ∧ (s.lowResult b).reject = s.reject := by
  suffices h : ∀ u, s.lowResult b = u → u.pending = s.pending ∧ u.timeBase = s.timeBase ∧ u.pins = s.pins ∧
      u.node = s.node ∧ u.memory = s.memory ∧
    u.config.header = s.config.header ∧ u.config.banks = s.config.banks ∧ u.config.usable = s.config.usable ∧
    u.config.signature = s.config.signature ∧ u.config.persistent = s.config.persistent ∧
    u.tracker = s.tracker ∧ u.seq = s.seq ∧ u.steam = s.steam ∧ u.closing = s.closing ∧
        u.transit = s.transit ∧
    u.reject = s.reject from h _ rfl
  intro u hu
  simp only [State.lowResult] at hu
  (repeat' split at hu) <;> subst hu <;> simp

@[simp] theorem State.goodResult_frame (s : State) (b : BankId) :
    (s.goodResult b).pending = s.pending ∧ (s.goodResult b).timeBase = s.timeBase ∧
    (s.goodResult b).pins = s.pins ∧ (s.goodResult b).node = s.node ∧ (s.goodResult b).memory = s.memory ∧
    (s.goodResult b).config.header = s.config.header ∧ (s.goodResult b).config.banks = s.config.banks ∧
    (s.goodResult b).config.usable = s.config.usable ∧
        (s.goodResult b).config.signature = s.config.signature ∧
    (s.goodResult b).config.persistent = s.config.persistent ∧ (s.goodResult b).tracker = s.tracker ∧
    (s.goodResult b).seq = s.seq ∧ (s.goodResult b).steam = s.steam ∧ (s.goodResult b).closing = s.closing ∧
    (s.goodResult b).transit = s.transit ∧ (s.goodResult b).reject = s.reject := by
  suffices h : ∀ u, s.goodResult b = u → u.pending = s.pending ∧ u.timeBase = s.timeBase ∧ u.pins = s.pins ∧
      u.node = s.node ∧ u.memory = s.memory ∧
    u.config.header = s.config.header ∧ u.config.banks = s.config.banks ∧ u.config.usable = s.config.usable ∧
    u.config.signature = s.config.signature ∧ u.config.persistent = s.config.persistent ∧
    u.tracker = s.tracker ∧ u.seq = s.seq ∧ u.steam = s.steam ∧ u.closing = s.closing ∧
        u.transit = s.transit ∧
    u.reject = s.reject from h _ rfl
  intro u hu
  simp only [State.goodResult] at hu
  (repeat' split at hu) <;> subst hu <;> simp

@[simp] theorem State.takeAnswer_frame (s : State) (e : Summary) (p : VerdictPayload) :
    (s.takeAnswer e p).pending = s.pending ∧ (s.takeAnswer e p).timeBase = s.timeBase ∧
    (s.takeAnswer e p).pins = s.pins ∧ (s.takeAnswer e p).node = s.node ∧
    (s.takeAnswer e p).memory = s.memory ∧ (s.takeAnswer e p).config.header = s.config.header ∧
    (s.takeAnswer e p).config.banks = s.config.banks ∧ (s.takeAnswer e p).config.usable = s.config.usable ∧
    (s.takeAnswer e p).config.signature = s.config.signature ∧
    (s.takeAnswer e p).config.persistent = s.config.persistent ∧ (s.takeAnswer e p).tracker = s.tracker ∧
    (s.takeAnswer e p).seq = s.seq ∧ (s.takeAnswer e p).steam = s.steam ∧
    (s.takeAnswer e p).closing = s.closing ∧ (s.takeAnswer e p).transit = s.transit ∧
    (s.takeAnswer e p).reject = s.reject := by
  suffices h : ∀ u, s.takeAnswer e p = u → u.pending = s.pending ∧ u.timeBase = s.timeBase ∧
      u.pins = s.pins ∧ u.node = s.node ∧ u.memory = s.memory ∧
    u.config.header = s.config.header ∧ u.config.banks = s.config.banks ∧ u.config.usable = s.config.usable ∧
    u.config.signature = s.config.signature ∧ u.config.persistent = s.config.persistent ∧
    u.tracker = s.tracker ∧ u.seq = s.seq ∧ u.steam = s.steam ∧ u.closing = s.closing ∧
        u.transit = s.transit ∧
    u.reject = s.reject from h _ rfl
  intro u hu
  simp only [State.takeAnswer] at hu
  (repeat' split at hu) <;> subst hu <;> simp

@[simp] theorem State.matchVerdict_frame (s : State) (p : VerdictPayload) :
    (s.matchVerdict p).pending = s.pending ∧ (s.matchVerdict p).timeBase = s.timeBase ∧
    (s.matchVerdict p).pins = s.pins ∧ (s.matchVerdict p).node = s.node ∧
    (s.matchVerdict p).memory = s.memory ∧ (s.matchVerdict p).config.header = s.config.header ∧
    (s.matchVerdict p).config.banks = s.config.banks ∧ (s.matchVerdict p).config.usable = s.config.usable ∧
    (s.matchVerdict p).config.signature = s.config.signature ∧
    (s.matchVerdict p).config.persistent = s.config.persistent ∧ (s.matchVerdict p).tracker = s.tracker ∧
    (s.matchVerdict p).seq = s.seq ∧ (s.matchVerdict p).steam = s.steam ∧
    (s.matchVerdict p).closing = s.closing ∧ (s.matchVerdict p).transit = s.transit ∧
    (s.matchVerdict p).reject = s.reject := by
  suffices h : ∀ u, s.matchVerdict p = u → u.pending = s.pending ∧ u.timeBase = s.timeBase ∧
      u.pins = s.pins ∧ u.node = s.node ∧ u.memory = s.memory ∧
    u.config.header = s.config.header ∧ u.config.banks = s.config.banks ∧ u.config.usable = s.config.usable ∧
    u.config.signature = s.config.signature ∧ u.config.persistent = s.config.persistent ∧
    u.tracker = s.tracker ∧ u.seq = s.seq ∧ u.steam = s.steam ∧ u.closing = s.closing ∧
        u.transit = s.transit ∧
    u.reject = s.reject from h _ rfl
  intro u hu
  simp only [State.matchVerdict] at hu
  (repeat' split at hu) <;> subst hu <;> simp

@[simp] theorem State.resetTrims_frame (s : State) :
    (s.resetTrims).pending = s.pending ∧ (s.resetTrims).timeBase = s.timeBase ∧ (s.resetTrims).pins = s.pins ∧
    (s.resetTrims).node = s.node ∧ (s.resetTrims).memory = s.memory ∧
    (s.resetTrims).config.header = s.config.header ∧ (s.resetTrims).config.banks = s.config.banks ∧
    (s.resetTrims).config.usable = s.config.usable ∧ (s.resetTrims).config.signature = s.config.signature ∧
    (s.resetTrims).config.persistent = s.config.persistent ∧ (s.resetTrims).tracker = s.tracker ∧
    (s.resetTrims).seq = s.seq ∧ (s.resetTrims).steam = s.steam ∧ (s.resetTrims).closing = s.closing ∧
    (s.resetTrims).transit = s.transit ∧ (s.resetTrims).reject = s.reject := by
  simp [State.resetTrims]

@[simp] theorem State.countPosting_frame (s : State) (r : Record) :
    (s.countPosting r).pending = s.pending ∧ (s.countPosting r).timeBase = s.timeBase ∧
    (s.countPosting r).pins = s.pins ∧ (s.countPosting r).node = s.node ∧
    (s.countPosting r).memory = s.memory ∧ (s.countPosting r).config.header = s.config.header ∧
    (s.countPosting r).config.banks = s.config.banks ∧ (s.countPosting r).config.usable = s.config.usable ∧
    (s.countPosting r).config.signature = s.config.signature ∧
    (s.countPosting r).config.persistent = s.config.persistent ∧ (s.countPosting r).tracker = s.tracker ∧
    (s.countPosting r).seq = s.seq ∧ (s.countPosting r).steam = s.steam ∧
    (s.countPosting r).closing = s.closing ∧ (s.countPosting r).verdicts = s.verdicts ∧
    (s.countPosting r).link = s.link ∧ (s.countPosting r).transit = s.transit ∧
    (s.countPosting r).reject = s.reject := by
  suffices h : ∀ u, s.countPosting r = u → u.pending = s.pending ∧ u.timeBase = s.timeBase ∧
      u.pins = s.pins ∧ u.node = s.node ∧ u.memory = s.memory ∧
    u.config.header = s.config.header ∧ u.config.banks = s.config.banks ∧ u.config.usable = s.config.usable ∧
    u.config.signature = s.config.signature ∧ u.config.persistent = s.config.persistent ∧
    u.tracker = s.tracker ∧ u.seq = s.seq ∧ u.steam = s.steam ∧ u.closing = s.closing ∧
    u.verdicts = s.verdicts ∧ u.link = s.link ∧ u.transit = s.transit ∧ u.reject = s.reject from h _ rfl
  intro u hu
  simp only [State.countPosting] at hu
  (repeat' split at hu) <;> subst hu <;> simp

@[simp] theorem State.postRecord_frame (s : State) :
    (s.postRecord).pending = s.pending ∧ (s.postRecord).timeBase = s.timeBase ∧ (s.postRecord).pins = s.pins ∧
    (s.postRecord).node = s.node ∧ (s.postRecord).memory = s.memory ∧
    (s.postRecord).config.header = s.config.header ∧ (s.postRecord).config.banks = s.config.banks ∧
    (s.postRecord).config.usable = s.config.usable ∧ (s.postRecord).config.signature = s.config.signature ∧
    (s.postRecord).config.persistent = s.config.persistent ∧ (s.postRecord).tracker = s.tracker ∧
    (s.postRecord).closing = s.closing ∧ (s.postRecord).transit = s.transit ∧
    (s.postRecord).reject = s.reject := by
  suffices h : ∀ u, s.postRecord = u → u.pending = s.pending ∧ u.timeBase = s.timeBase ∧ u.pins = s.pins ∧
      u.node = s.node ∧ u.memory = s.memory ∧
    u.config.header = s.config.header ∧ u.config.banks = s.config.banks ∧ u.config.usable = s.config.usable ∧
    u.config.signature = s.config.signature ∧ u.config.persistent = s.config.persistent ∧
    u.tracker = s.tracker ∧ u.closing = s.closing ∧ u.transit = s.transit ∧ u.reject = s.reject from h _ rfl
  intro u hu
  simp only [State.postRecord] at hu
  (repeat' split at hu) <;> subst hu <;> simp

@[simp] theorem State.releaseAndPost_frame (s : State) :
    (s.releaseAndPost).pending = s.pending ∧ (s.releaseAndPost).timeBase = s.timeBase ∧
    (s.releaseAndPost).pins = s.pins ∧ (s.releaseAndPost).node = s.node ∧
    (s.releaseAndPost).memory = s.memory ∧ (s.releaseAndPost).config.header = s.config.header ∧
    (s.releaseAndPost).config.banks = s.config.banks ∧ (s.releaseAndPost).config.usable = s.config.usable ∧
    (s.releaseAndPost).config.signature = s.config.signature ∧
    (s.releaseAndPost).config.persistent = s.config.persistent ∧ (s.releaseAndPost).tracker = s.tracker ∧
    (s.releaseAndPost).transit = s.transit ∧ (s.releaseAndPost).reject = s.reject := by
  suffices h : ∀ u, s.releaseAndPost = u → u.pending = s.pending ∧ u.timeBase = s.timeBase ∧
      u.pins = s.pins ∧ u.node = s.node ∧ u.memory = s.memory ∧
    u.config.header = s.config.header ∧ u.config.banks = s.config.banks ∧ u.config.usable = s.config.usable ∧
    u.config.signature = s.config.signature ∧ u.config.persistent = s.config.persistent ∧
    u.tracker = s.tracker ∧ u.transit = s.transit ∧ u.reject = s.reject from h _ rfl
  intro u hu
  simp only [State.releaseAndPost] at hu
  (repeat' split at hu) <;> subst hu <;> simp

@[simp] theorem State.abort_frame (s : State) (cause : AbortCause) :
    (s.abort cause).pending = s.pending ∧ (s.abort cause).timeBase = s.timeBase ∧
    (s.abort cause).pins = s.pins ∧ (s.abort cause).node = s.node ∧ (s.abort cause).memory = s.memory ∧
    (s.abort cause).config.header = s.config.header ∧ (s.abort cause).config.banks = s.config.banks ∧
    (s.abort cause).config.usable = s.config.usable ∧ (s.abort cause).config.signature = s.config.signature ∧
    (s.abort cause).config.persistent = s.config.persistent ∧ (s.abort cause).tracker = s.tracker ∧
    (s.abort cause).verdicts = s.verdicts ∧ (s.abort cause).transit = s.transit ∧
    (s.abort cause).reject = s.reject := by
  suffices h : ∀ u, s.abort cause = u → u.pending = s.pending ∧ u.timeBase = s.timeBase ∧ u.pins = s.pins ∧
      u.node = s.node ∧ u.memory = s.memory ∧
    u.config.header = s.config.header ∧ u.config.banks = s.config.banks ∧ u.config.usable = s.config.usable ∧
    u.config.signature = s.config.signature ∧ u.config.persistent = s.config.persistent ∧
    u.tracker = s.tracker ∧ u.verdicts = s.verdicts ∧ u.transit = s.transit ∧ u.reject = s.reject from h _ rfl
  intro u hu
  simp only [State.abort] at hu
  (repeat' split at hu) <;> subst hu <;> simp

@[simp] theorem State.abortWorking_frame (s : State) (cause : AbortCause) :
    (s.abortWorking cause).pending = s.pending ∧ (s.abortWorking cause).timeBase = s.timeBase ∧
    (s.abortWorking cause).pins = s.pins ∧ (s.abortWorking cause).node = s.node ∧
    (s.abortWorking cause).memory = s.memory ∧ (s.abortWorking cause).config.header = s.config.header ∧
    (s.abortWorking cause).config.banks = s.config.banks ∧
    (s.abortWorking cause).config.usable = s.config.usable ∧
    (s.abortWorking cause).config.signature = s.config.signature ∧
    (s.abortWorking cause).config.persistent = s.config.persistent ∧
    (s.abortWorking cause).tracker = s.tracker ∧ (s.abortWorking cause).verdicts = s.verdicts ∧
    (s.abortWorking cause).transit = s.transit ∧ (s.abortWorking cause).reject = s.reject := by
  suffices h : ∀ u, s.abortWorking cause = u → u.pending = s.pending ∧ u.timeBase = s.timeBase ∧
      u.pins = s.pins ∧ u.node = s.node ∧ u.memory = s.memory ∧
    u.config.header = s.config.header ∧ u.config.banks = s.config.banks ∧ u.config.usable = s.config.usable ∧
    u.config.signature = s.config.signature ∧ u.config.persistent = s.config.persistent ∧
    u.tracker = s.tracker ∧ u.verdicts = s.verdicts ∧ u.transit = s.transit ∧ u.reject = s.reject from h _ rfl
  intro u hu
  simp only [State.abortWorking] at hu
  (repeat' split at hu) <;> subst hu <;> simp

@[simp] theorem State.abortIndex_frame (s : State) :
    (s.abortIndex).pending = s.pending ∧ (s.abortIndex).timeBase = s.timeBase ∧ (s.abortIndex).pins = s.pins ∧
    (s.abortIndex).node = s.node ∧ (s.abortIndex).memory = s.memory ∧
    (s.abortIndex).config.header = s.config.header ∧ (s.abortIndex).config.banks = s.config.banks ∧
    (s.abortIndex).config.usable = s.config.usable ∧ (s.abortIndex).config.signature = s.config.signature ∧
    (s.abortIndex).config.persistent = s.config.persistent ∧ (s.abortIndex).tracker = s.tracker ∧
    (s.abortIndex).verdicts = s.verdicts ∧ (s.abortIndex).transit = s.transit ∧
    (s.abortIndex).reject = s.reject := by
  suffices h : ∀ u, s.abortIndex = u → u.pending = s.pending ∧ u.timeBase = s.timeBase ∧ u.pins = s.pins ∧
      u.node = s.node ∧ u.memory = s.memory ∧
    u.config.header = s.config.header ∧ u.config.banks = s.config.banks ∧ u.config.usable = s.config.usable ∧
    u.config.signature = s.config.signature ∧ u.config.persistent = s.config.persistent ∧
    u.tracker = s.tracker ∧ u.verdicts = s.verdicts ∧ u.transit = s.transit ∧ u.reject = s.reject from h _ rfl
  intro u hu
  simp only [State.abortIndex] at hu
  (repeat' split at hu) <;> subst hu <;> simp

@[simp] theorem State.abortPower_frame (s : State) :
    (s.abortPower).pending = s.pending ∧ (s.abortPower).timeBase = s.timeBase ∧ (s.abortPower).pins = s.pins ∧
    (s.abortPower).node = s.node ∧ (s.abortPower).memory = s.memory ∧
    (s.abortPower).config.header = s.config.header ∧ (s.abortPower).config.banks = s.config.banks ∧
    (s.abortPower).config.usable = s.config.usable ∧ (s.abortPower).config.signature = s.config.signature ∧
    (s.abortPower).config.persistent = s.config.persistent ∧ (s.abortPower).tracker = s.tracker ∧
    (s.abortPower).transit = s.transit ∧ (s.abortPower).reject = s.reject := by
  suffices h : ∀ u, s.abortPower = u → u.pending = s.pending ∧ u.timeBase = s.timeBase ∧ u.pins = s.pins ∧
      u.node = s.node ∧ u.memory = s.memory ∧
    u.config.header = s.config.header ∧ u.config.banks = s.config.banks ∧ u.config.usable = s.config.usable ∧
    u.config.signature = s.config.signature ∧ u.config.persistent = s.config.persistent ∧
    u.tracker = s.tracker ∧ u.transit = s.transit ∧ u.reject = s.reject from h _ rfl
  intro u hu
  simp only [State.abortPower] at hu
  (repeat' split at hu) <;> subst hu <;> simp

@[simp] theorem State.takePendingBank_frame (s : State) :
    (s.takePendingBank).pending = s.pending ∧ (s.takePendingBank).timeBase = s.timeBase ∧
    (s.takePendingBank).pins = s.pins ∧ (s.takePendingBank).node = s.node ∧
    (s.takePendingBank).memory = s.memory ∧ (s.takePendingBank).config.header = s.config.header ∧
    (s.takePendingBank).config.banks = s.config.banks ∧ (s.takePendingBank).config.usable = s.config.usable ∧
    (s.takePendingBank).config.signature = s.config.signature ∧
    (s.takePendingBank).config.persistent = s.config.persistent ∧ (s.takePendingBank).tracker = s.tracker ∧
    (s.takePendingBank).steam = s.steam ∧ (s.takePendingBank).closing = s.closing ∧
    (s.takePendingBank).verdicts = s.verdicts ∧ (s.takePendingBank).transit = s.transit ∧
    (s.takePendingBank).reject = s.reject := by
  suffices h : ∀ u, s.takePendingBank = u → u.pending = s.pending ∧ u.timeBase = s.timeBase ∧
      u.pins = s.pins ∧ u.node = s.node ∧ u.memory = s.memory ∧
    u.config.header = s.config.header ∧ u.config.banks = s.config.banks ∧ u.config.usable = s.config.usable ∧
    u.config.signature = s.config.signature ∧ u.config.persistent = s.config.persistent ∧
    u.tracker = s.tracker ∧ u.steam = s.steam ∧ u.closing = s.closing ∧ u.verdicts = s.verdicts ∧
    u.transit = s.transit ∧ u.reject = s.reject from h _ rfl
  intro u hu
  simp only [State.takePendingBank] at hu
  (repeat' split at hu) <;> subst hu <;> simp

@[simp] theorem State.takePendingLock_frame (s : State) :
    (s.takePendingLock).pending = s.pending ∧ (s.takePendingLock).timeBase = s.timeBase ∧
    (s.takePendingLock).pins = s.pins ∧ (s.takePendingLock).node = s.node ∧
    (s.takePendingLock).memory = s.memory ∧ (s.takePendingLock).config.header = s.config.header ∧
    (s.takePendingLock).config.banks = s.config.banks ∧ (s.takePendingLock).config.usable = s.config.usable ∧
    (s.takePendingLock).config.signature = s.config.signature ∧
    (s.takePendingLock).config.persistent = s.config.persistent ∧ (s.takePendingLock).tracker = s.tracker ∧
    (s.takePendingLock).closing = s.closing ∧ (s.takePendingLock).verdicts = s.verdicts ∧
    (s.takePendingLock).transit = s.transit ∧ (s.takePendingLock).reject = s.reject := by
  suffices h : ∀ u, s.takePendingLock = u → u.pending = s.pending ∧ u.timeBase = s.timeBase ∧
      u.pins = s.pins ∧ u.node = s.node ∧ u.memory = s.memory ∧
    u.config.header = s.config.header ∧ u.config.banks = s.config.banks ∧ u.config.usable = s.config.usable ∧
    u.config.signature = s.config.signature ∧ u.config.persistent = s.config.persistent ∧
    u.tracker = s.tracker ∧ u.closing = s.closing ∧ u.verdicts = s.verdicts ∧ u.transit = s.transit ∧
    u.reject = s.reject from h _ rfl
  intro u hu
  simp only [State.takePendingLock] at hu
  (repeat' split at hu) <;> subst hu <;> simp

@[simp] theorem State.openRecord_frame (s : State) :
    (s.openRecord).pending = s.pending ∧ (s.openRecord).timeBase = s.timeBase ∧ (s.openRecord).pins = s.pins ∧
    (s.openRecord).node = s.node ∧ (s.openRecord).memory = s.memory ∧ (s.openRecord).config = s.config ∧
    (s.openRecord).counters = s.counters ∧ (s.openRecord).tracker = s.tracker ∧
    (s.openRecord).steam = s.steam ∧ (s.openRecord).closing = s.closing ∧
    (s.openRecord).verdicts = s.verdicts ∧ (s.openRecord).link = s.link ∧ (s.openRecord).transit = s.transit ∧
    (s.openRecord).reject = s.reject := by
  simp [State.openRecord]

@[simp] theorem State.endCycle_frame (s : State) (v : CapVerdict) :
    (s.endCycle v).pending = s.pending ∧ (s.endCycle v).timeBase = s.timeBase ∧ (s.endCycle v).pins = s.pins ∧
    (s.endCycle v).node = s.node ∧ (s.endCycle v).memory = s.memory ∧ (s.endCycle v).config = s.config ∧
    (s.endCycle v).counters = s.counters ∧ (s.endCycle v).tracker = s.tracker ∧
    (s.endCycle v).steam = s.steam ∧ (s.endCycle v).closing = s.closing ∧
    (s.endCycle v).verdicts = s.verdicts ∧ (s.endCycle v).link = s.link ∧ (s.endCycle v).transit = s.transit ∧
    (s.endCycle v).reject = s.reject := by
  simp [State.endCycle]

@[simp] theorem State.endNoJar_frame (s : State) (why : VoidReason) :
    (s.endNoJar why).pending = s.pending ∧ (s.endNoJar why).timeBase = s.timeBase ∧
    (s.endNoJar why).pins = s.pins ∧ (s.endNoJar why).node = s.node ∧ (s.endNoJar why).memory = s.memory ∧
    (s.endNoJar why).config = s.config ∧ (s.endNoJar why).counters = s.counters ∧
    (s.endNoJar why).tracker = s.tracker ∧ (s.endNoJar why).steam = s.steam ∧
    (s.endNoJar why).closing = s.closing ∧ (s.endNoJar why).verdicts = s.verdicts ∧
    (s.endNoJar why).link = s.link ∧ (s.endNoJar why).transit = s.transit ∧
    (s.endNoJar why).reject = s.reject := by
  simp [State.endNoJar]

@[simp] theorem State.setSelfLock_frame (s : State) :
    (s.setSelfLock).pending = s.pending ∧ (s.setSelfLock).timeBase = s.timeBase ∧
    (s.setSelfLock).pins = s.pins ∧ (s.setSelfLock).node = s.node ∧ (s.setSelfLock).memory = s.memory ∧
    (s.setSelfLock).config.header = s.config.header ∧ (s.setSelfLock).config.banks = s.config.banks ∧
    (s.setSelfLock).config.usable = s.config.usable ∧ (s.setSelfLock).config.signature = s.config.signature ∧
    (s.setSelfLock).config.persistent = s.config.persistent ∧ (s.setSelfLock).tracker = s.tracker ∧
    (s.setSelfLock).steam = s.steam ∧ (s.setSelfLock).closing = s.closing ∧
    (s.setSelfLock).verdicts = s.verdicts ∧ (s.setSelfLock).transit = s.transit ∧
    (s.setSelfLock).reject = s.reject := by
  suffices h : ∀ u, s.setSelfLock = u → u.pending = s.pending ∧ u.timeBase = s.timeBase ∧ u.pins = s.pins ∧
      u.node = s.node ∧ u.memory = s.memory ∧
    u.config.header = s.config.header ∧ u.config.banks = s.config.banks ∧ u.config.usable = s.config.usable ∧
    u.config.signature = s.config.signature ∧ u.config.persistent = s.config.persistent ∧
    u.tracker = s.tracker ∧ u.steam = s.steam ∧ u.closing = s.closing ∧ u.verdicts = s.verdicts ∧
    u.transit = s.transit ∧ u.reject = s.reject from h _ rfl
  intro u hu
  simp only [State.setSelfLock] at hu
  (repeat' split at hu) <;> subst hu <;> simp

@[simp] theorem State.preventStart_frame (s : State) :
    (s.preventStart).pending = s.pending ∧ (s.preventStart).timeBase = s.timeBase ∧
    (s.preventStart).pins = s.pins ∧ (s.preventStart).node = s.node ∧ (s.preventStart).memory = s.memory ∧
    (s.preventStart).config.header = s.config.header ∧ (s.preventStart).config.banks = s.config.banks ∧
    (s.preventStart).config.usable = s.config.usable ∧
        (s.preventStart).config.signature = s.config.signature ∧
    (s.preventStart).config.persistent = s.config.persistent ∧ (s.preventStart).tracker = s.tracker ∧
    (s.preventStart).steam = s.steam ∧ (s.preventStart).closing = s.closing ∧
    (s.preventStart).verdicts = s.verdicts ∧ (s.preventStart).transit = s.transit ∧
    (s.preventStart).reject = s.reject := by
  suffices h : ∀ u, s.preventStart = u → u.pending = s.pending ∧ u.timeBase = s.timeBase ∧ u.pins = s.pins ∧
      u.node = s.node ∧ u.memory = s.memory ∧
    u.config.header = s.config.header ∧ u.config.banks = s.config.banks ∧ u.config.usable = s.config.usable ∧
    u.config.signature = s.config.signature ∧ u.config.persistent = s.config.persistent ∧
    u.tracker = s.tracker ∧ u.steam = s.steam ∧ u.closing = s.closing ∧ u.verdicts = s.verdicts ∧
    u.transit = s.transit ∧ u.reject = s.reject from h _ rfl
  intro u hu
  simp only [State.preventStart] at hu
  (repeat' split at hu) <;> subst hu <;> simp

@[simp] theorem State.postLeftOver_frame (s : State) :
    (s.postLeftOver).pending = s.pending ∧ (s.postLeftOver).timeBase = s.timeBase ∧
    (s.postLeftOver).pins = s.pins ∧ (s.postLeftOver).node = s.node ∧ (s.postLeftOver).memory = s.memory ∧
    (s.postLeftOver).config.header = s.config.header ∧ (s.postLeftOver).config.banks = s.config.banks ∧
    (s.postLeftOver).config.usable = s.config.usable ∧
        (s.postLeftOver).config.signature = s.config.signature ∧
    (s.postLeftOver).config.persistent = s.config.persistent ∧ (s.postLeftOver).tracker = s.tracker ∧
    (s.postLeftOver).transit = s.transit ∧ (s.postLeftOver).reject = s.reject := by
  suffices h : ∀ u, s.postLeftOver = u → u.pending = s.pending ∧ u.timeBase = s.timeBase ∧ u.pins = s.pins ∧
      u.node = s.node ∧ u.memory = s.memory ∧
    u.config.header = s.config.header ∧ u.config.banks = s.config.banks ∧ u.config.usable = s.config.usable ∧
    u.config.signature = s.config.signature ∧ u.config.persistent = s.config.persistent ∧
    u.tracker = s.tracker ∧ u.transit = s.transit ∧ u.reject = s.reject from h _ rfl
  intro u hu
  simp only [State.postLeftOver] at hu
  (repeat' split at hu) <;> subst hu <;> simp

@[simp] theorem State.atInfeed_frame (s : State) :
    (s.atInfeed).pending = s.pending ∧ (s.atInfeed).timeBase = s.timeBase ∧ (s.atInfeed).pins = s.pins ∧
    (s.atInfeed).node = s.node ∧ (s.atInfeed).memory = s.memory ∧
    (s.atInfeed).config.header = s.config.header ∧ (s.atInfeed).config.banks = s.config.banks ∧
    (s.atInfeed).config.usable = s.config.usable ∧ (s.atInfeed).config.signature = s.config.signature ∧
    (s.atInfeed).config.persistent = s.config.persistent ∧ (s.atInfeed).tracker = s.tracker ∧
    (s.atInfeed).transit = s.transit ∧ (s.atInfeed).reject = s.reject := by
  suffices h : ∀ u, s.atInfeed = u → u.pending = s.pending ∧ u.timeBase = s.timeBase ∧ u.pins = s.pins ∧
      u.node = s.node ∧ u.memory = s.memory ∧
    u.config.header = s.config.header ∧ u.config.banks = s.config.banks ∧ u.config.usable = s.config.usable ∧
    u.config.signature = s.config.signature ∧ u.config.persistent = s.config.persistent ∧
    u.tracker = s.tracker ∧ u.transit = s.transit ∧ u.reject = s.reject from h _ rfl
  intro u hu
  simp only [State.atInfeed] at hu
  (repeat' split at hu) <;> subst hu <;> simp

@[simp] theorem State.atPick_frame (s : State) :
    (s.atPick).pending = s.pending ∧ (s.atPick).timeBase = s.timeBase ∧ (s.atPick).pins = s.pins ∧
    (s.atPick).node = s.node ∧ (s.atPick).memory = s.memory ∧ (s.atPick).config = s.config ∧
    (s.atPick).counters = s.counters ∧ (s.atPick).tracker = s.tracker ∧ (s.atPick).steam = s.steam ∧
    (s.atPick).closing = s.closing ∧ (s.atPick).verdicts = s.verdicts ∧ (s.atPick).link = s.link ∧
    (s.atPick).transit = s.transit ∧ (s.atPick).reject = s.reject := by
  suffices h : ∀ u, s.atPick = u → u.pending = s.pending ∧ u.timeBase = s.timeBase ∧ u.pins = s.pins ∧
      u.node = s.node ∧ u.memory = s.memory ∧
    u.config = s.config ∧ u.counters = s.counters ∧ u.tracker = s.tracker ∧ u.steam = s.steam ∧
    u.closing = s.closing ∧ u.verdicts = s.verdicts ∧ u.link = s.link ∧ u.transit = s.transit ∧
    u.reject = s.reject from h _ rfl
  intro u hu
  simp only [State.atPick] at hu
  (repeat' split at hu) <;> subst hu <;> simp

@[simp] theorem State.takeTemperature_frame (s : State) :
    (s.takeTemperature).pending = s.pending ∧ (s.takeTemperature).timeBase = s.timeBase ∧
    (s.takeTemperature).pins = s.pins ∧ (s.takeTemperature).node = s.node ∧
    (s.takeTemperature).memory = s.memory ∧ (s.takeTemperature).config = s.config ∧
    (s.takeTemperature).counters = s.counters ∧ (s.takeTemperature).tracker = s.tracker ∧
    (s.takeTemperature).steam = s.steam ∧ (s.takeTemperature).closing = s.closing ∧
    (s.takeTemperature).verdicts = s.verdicts ∧ (s.takeTemperature).link = s.link ∧
    (s.takeTemperature).transit = s.transit ∧ (s.takeTemperature).reject = s.reject := by
  suffices h : ∀ u, s.takeTemperature = u → u.pending = s.pending ∧ u.timeBase = s.timeBase ∧
      u.pins = s.pins ∧ u.node = s.node ∧ u.memory = s.memory ∧
    u.config = s.config ∧ u.counters = s.counters ∧ u.tracker = s.tracker ∧ u.steam = s.steam ∧
    u.closing = s.closing ∧ u.verdicts = s.verdicts ∧ u.link = s.link ∧ u.transit = s.transit ∧
    u.reject = s.reject from h _ rfl
  intro u hu
  simp only [State.takeTemperature] at hu
  (repeat' split at hu) <;> subst hu <;> simp

@[simp] theorem State.atFlushStart_frame (s : State) :
    (s.atFlushStart).pending = s.pending ∧ (s.atFlushStart).timeBase = s.timeBase ∧
    (s.atFlushStart).pins = s.pins ∧ (s.atFlushStart).node = s.node ∧ (s.atFlushStart).memory = s.memory ∧
    (s.atFlushStart).config.header = s.config.header ∧ (s.atFlushStart).config.banks = s.config.banks ∧
    (s.atFlushStart).config.usable = s.config.usable ∧
        (s.atFlushStart).config.signature = s.config.signature ∧
    (s.atFlushStart).config.persistent = s.config.persistent ∧ (s.atFlushStart).tracker = s.tracker ∧
    (s.atFlushStart).verdicts = s.verdicts ∧ (s.atFlushStart).transit = s.transit ∧
    (s.atFlushStart).reject = s.reject := by
  suffices h : ∀ u, s.atFlushStart = u → u.pending = s.pending ∧ u.timeBase = s.timeBase ∧ u.pins = s.pins ∧
      u.node = s.node ∧ u.memory = s.memory ∧
    u.config.header = s.config.header ∧ u.config.banks = s.config.banks ∧ u.config.usable = s.config.usable ∧
    u.config.signature = s.config.signature ∧ u.config.persistent = s.config.persistent ∧
    u.tracker = s.tracker ∧ u.verdicts = s.verdicts ∧ u.transit = s.transit ∧ u.reject = s.reject from h _ rfl
  intro u hu
  simp only [State.atFlushStart] at hu
  (repeat' split at hu) <;> subst hu <;> simp

@[simp] theorem State.atApplyStart_frame (s : State) :
    (s.atApplyStart).pending = s.pending ∧ (s.atApplyStart).timeBase = s.timeBase ∧
    (s.atApplyStart).pins = s.pins ∧ (s.atApplyStart).node = s.node ∧ (s.atApplyStart).memory = s.memory ∧
    (s.atApplyStart).config.header = s.config.header ∧ (s.atApplyStart).config.banks = s.config.banks ∧
    (s.atApplyStart).config.usable = s.config.usable ∧
        (s.atApplyStart).config.signature = s.config.signature ∧
    (s.atApplyStart).config.persistent = s.config.persistent ∧ (s.atApplyStart).tracker = s.tracker ∧
    (s.atApplyStart).verdicts = s.verdicts ∧ (s.atApplyStart).transit = s.transit ∧
    (s.atApplyStart).reject = s.reject := by
  suffices h : ∀ u, s.atApplyStart = u → u.pending = s.pending ∧ u.timeBase = s.timeBase ∧ u.pins = s.pins ∧
      u.node = s.node ∧ u.memory = s.memory ∧
    u.config.header = s.config.header ∧ u.config.banks = s.config.banks ∧ u.config.usable = s.config.usable ∧
    u.config.signature = s.config.signature ∧ u.config.persistent = s.config.persistent ∧
    u.tracker = s.tracker ∧ u.verdicts = s.verdicts ∧ u.transit = s.transit ∧ u.reject = s.reject from h _ rfl
  intro u hu
  simp only [State.atApplyStart] at hu
  (repeat' split at hu) <;> subst hu <;> simp

@[simp] theorem State.atFlushEnd_frame (s : State) :
    (s.atFlushEnd).pending = s.pending ∧ (s.atFlushEnd).timeBase = s.timeBase ∧ (s.atFlushEnd).pins = s.pins ∧
    (s.atFlushEnd).node = s.node ∧ (s.atFlushEnd).memory = s.memory ∧
    (s.atFlushEnd).config.header = s.config.header ∧ (s.atFlushEnd).config.banks = s.config.banks ∧
    (s.atFlushEnd).config.usable = s.config.usable ∧ (s.atFlushEnd).config.signature = s.config.signature ∧
    (s.atFlushEnd).config.persistent = s.config.persistent ∧ (s.atFlushEnd).tracker = s.tracker ∧
    (s.atFlushEnd).closing = s.closing ∧ (s.atFlushEnd).verdicts = s.verdicts ∧
    (s.atFlushEnd).transit = s.transit ∧ (s.atFlushEnd).reject = s.reject := by
  suffices h : ∀ u, s.atFlushEnd = u → u.pending = s.pending ∧ u.timeBase = s.timeBase ∧ u.pins = s.pins ∧
      u.node = s.node ∧ u.memory = s.memory ∧
    u.config.header = s.config.header ∧ u.config.banks = s.config.banks ∧ u.config.usable = s.config.usable ∧
    u.config.signature = s.config.signature ∧ u.config.persistent = s.config.persistent ∧
    u.tracker = s.tracker ∧ u.closing = s.closing ∧ u.verdicts = s.verdicts ∧ u.transit = s.transit ∧
    u.reject = s.reject from h _ rfl
  intro u hu
  simp only [State.atFlushEnd] at hu
  (repeat' split at hu) <;> subst hu <;> simp

@[simp] theorem State.atApplyEnd_frame (s : State) :
    (s.atApplyEnd).pending = s.pending ∧ (s.atApplyEnd).timeBase = s.timeBase ∧ (s.atApplyEnd).pins = s.pins ∧
    (s.atApplyEnd).node = s.node ∧ (s.atApplyEnd).memory = s.memory ∧
    (s.atApplyEnd).config.header = s.config.header ∧ (s.atApplyEnd).config.banks = s.config.banks ∧
    (s.atApplyEnd).config.usable = s.config.usable ∧ (s.atApplyEnd).config.signature = s.config.signature ∧
    (s.atApplyEnd).config.persistent = s.config.persistent ∧ (s.atApplyEnd).tracker = s.tracker ∧
    (s.atApplyEnd).verdicts = s.verdicts ∧ (s.atApplyEnd).transit = s.transit ∧
    (s.atApplyEnd).reject = s.reject := by
  suffices h : ∀ u, s.atApplyEnd = u → u.pending = s.pending ∧ u.timeBase = s.timeBase ∧ u.pins = s.pins ∧
      u.node = s.node ∧ u.memory = s.memory ∧
    u.config.header = s.config.header ∧ u.config.banks = s.config.banks ∧ u.config.usable = s.config.usable ∧
    u.config.signature = s.config.signature ∧ u.config.persistent = s.config.persistent ∧
    u.tracker = s.tracker ∧ u.verdicts = s.verdicts ∧ u.transit = s.transit ∧ u.reject = s.reject from h _ rfl
  intro u hu
  simp only [State.atApplyEnd] at hu
  (repeat' split at hu) <;> subst hu <;> simp

@[simp] theorem State.makeGood_frame (s : State) :
    (s.makeGood).pending = s.pending ∧ (s.makeGood).timeBase = s.timeBase ∧ (s.makeGood).pins = s.pins ∧
    (s.makeGood).node = s.node ∧ (s.makeGood).memory = s.memory ∧ (s.makeGood).config = s.config ∧
    (s.makeGood).counters = s.counters ∧ (s.makeGood).tracker = s.tracker ∧ (s.makeGood).steam = s.steam ∧
    (s.makeGood).closing = s.closing ∧ (s.makeGood).verdicts = s.verdicts ∧ (s.makeGood).link = s.link ∧
    (s.makeGood).transit = s.transit ∧ (s.makeGood).reject = s.reject := by
  simp [State.makeGood]

@[simp] theorem State.atRelease_frame (s : State) :
    (s.atRelease).pending = s.pending ∧ (s.atRelease).timeBase = s.timeBase ∧ (s.atRelease).pins = s.pins ∧
    (s.atRelease).node = s.node ∧ (s.atRelease).memory = s.memory ∧
    (s.atRelease).config.header = s.config.header ∧ (s.atRelease).config.banks = s.config.banks ∧
    (s.atRelease).config.usable = s.config.usable ∧ (s.atRelease).config.signature = s.config.signature ∧
    (s.atRelease).config.persistent = s.config.persistent ∧ (s.atRelease).tracker = s.tracker ∧
    (s.atRelease).transit = s.transit ∧ (s.atRelease).reject = s.reject := by
  suffices h : ∀ u, s.atRelease = u → u.pending = s.pending ∧ u.timeBase = s.timeBase ∧ u.pins = s.pins ∧
      u.node = s.node ∧ u.memory = s.memory ∧
    u.config.header = s.config.header ∧ u.config.banks = s.config.banks ∧ u.config.usable = s.config.usable ∧
    u.config.signature = s.config.signature ∧ u.config.persistent = s.config.persistent ∧
    u.tracker = s.tracker ∧ u.transit = s.transit ∧ u.reject = s.reject from h _ rfl
  intro u hu
  simp only [State.atRelease] at hu
  (repeat' split at hu) <;> subst hu <;> simp

@[simp] theorem State.handBoundary_frame (s : State) (x : Boundary) :
    (s.handBoundary x).pending = s.pending ∧ (s.handBoundary x).timeBase = s.timeBase ∧
    (s.handBoundary x).pins = s.pins ∧ (s.handBoundary x).node = s.node ∧
    (s.handBoundary x).memory = s.memory ∧ (s.handBoundary x).config.header = s.config.header ∧
    (s.handBoundary x).config.banks = s.config.banks ∧ (s.handBoundary x).config.usable = s.config.usable ∧
    (s.handBoundary x).config.signature = s.config.signature ∧
    (s.handBoundary x).config.persistent = s.config.persistent ∧ (s.handBoundary x).tracker = s.tracker ∧
    (s.handBoundary x).transit = s.transit ∧ (s.handBoundary x).reject = s.reject := by
  suffices h : ∀ u, s.handBoundary x = u → u.pending = s.pending ∧ u.timeBase = s.timeBase ∧
      u.pins = s.pins ∧ u.node = s.node ∧ u.memory = s.memory ∧
    u.config.header = s.config.header ∧ u.config.banks = s.config.banks ∧ u.config.usable = s.config.usable ∧
    u.config.signature = s.config.signature ∧ u.config.persistent = s.config.persistent ∧
    u.tracker = s.tracker ∧ u.transit = s.transit ∧ u.reject = s.reject from h _ rfl
  intro u hu
  simp only [State.handBoundary] at hu
  (repeat' split at hu) <;> subst hu <;> simp

@[simp] theorem State.handBoundaries_frame (s : State) (bs : List Boundary) :
    (s.handBoundaries bs).pending = s.pending ∧ (s.handBoundaries bs).timeBase = s.timeBase ∧
    (s.handBoundaries bs).pins = s.pins ∧ (s.handBoundaries bs).node = s.node ∧
    (s.handBoundaries bs).memory = s.memory ∧ (s.handBoundaries bs).config.header = s.config.header ∧
    (s.handBoundaries bs).config.banks = s.config.banks ∧
    (s.handBoundaries bs).config.usable = s.config.usable ∧
    (s.handBoundaries bs).config.signature = s.config.signature ∧
    (s.handBoundaries bs).config.persistent = s.config.persistent ∧
        (s.handBoundaries bs).tracker = s.tracker ∧
    (s.handBoundaries bs).transit = s.transit ∧ (s.handBoundaries bs).reject = s.reject := by
  have h : ∀ (q : List Boundary) (s : State),
      (q.foldl State.handBoundary s).pending = s.pending ∧
      (q.foldl State.handBoundary s).timeBase = s.timeBase ∧
      (q.foldl State.handBoundary s).pins = s.pins ∧
      (q.foldl State.handBoundary s).node = s.node ∧
      (q.foldl State.handBoundary s).memory = s.memory ∧
      (q.foldl State.handBoundary s).config.header = s.config.header ∧
      (q.foldl State.handBoundary s).config.banks = s.config.banks ∧
      (q.foldl State.handBoundary s).config.usable = s.config.usable ∧
      (q.foldl State.handBoundary s).config.signature = s.config.signature ∧
      (q.foldl State.handBoundary s).config.persistent = s.config.persistent ∧
      (q.foldl State.handBoundary s).tracker = s.tracker ∧
      (q.foldl State.handBoundary s).transit = s.transit ∧
      (q.foldl State.handBoundary s).reject = s.reject := by
    intro q
    induction q with
    | nil => intro s; simp
    | cons x q ih =>
      intro s
      simp only [List.foldl_cons, ih]
      simp
  simp [State.handBoundaries, h]

@[simp] theorem State.takeReport_frame (s : State) (p : ClosingReport) :
    (s.takeReport p).pending = s.pending ∧ (s.takeReport p).timeBase = s.timeBase ∧
    (s.takeReport p).pins = s.pins ∧ (s.takeReport p).node = s.node ∧ (s.takeReport p).memory = s.memory ∧
    (s.takeReport p).config.header = s.config.header ∧ (s.takeReport p).config.banks = s.config.banks ∧
    (s.takeReport p).config.usable = s.config.usable ∧ (s.takeReport p).config.signature = s.config.signature ∧
    (s.takeReport p).config.persistent = s.config.persistent ∧ (s.takeReport p).tracker = s.tracker ∧
    (s.takeReport p).closing = s.closing ∧ (s.takeReport p).verdicts = s.verdicts ∧
    (s.takeReport p).transit = s.transit ∧ (s.takeReport p).reject = s.reject := by
  suffices h : ∀ u, s.takeReport p = u →
      u.pending = s.pending ∧ u.timeBase = s.timeBase ∧ u.pins = s.pins ∧ u.node = s.node ∧
      u.memory = s.memory ∧ u.config.header = s.config.header ∧ u.config.banks = s.config.banks ∧
      u.config.usable = s.config.usable ∧ u.config.signature = s.config.signature ∧
      u.config.persistent = s.config.persistent ∧ u.tracker = s.tracker ∧ u.closing = s.closing ∧
      u.verdicts = s.verdicts ∧ u.transit = s.transit ∧ u.reject = s.reject from h _ rfl
  intro u hu
  simp only [State.takeReport] at hu
  (repeat' split at hu) <;> subst hu <;> simp

/-- `u` is `s` after the closing unit's part of a sample event: the closing unit and the head's counters have
changed, and an engage has shut an open flush (R69, R70, R80). -/
def State.Sampled (s u : State) : Prop :=
  ∃ (c : Closing) (n : HeadCounters),
    u = (s.withClosing c).countHead (fun _ => n) ∨
    u = ((s.withClosing c).countHead fun _ => n).shutRequest .engage

theorem State.unitHandles_sampled (s : State) (t : Torque) (a : Half) (b : Bool) :
    s.Sampled (s.unitHandles t a b).1 := by
  refine ⟨(s.closing.handle t a b).1, s.counters.head, ?_⟩
  simp only [State.unitHandles]
  split
  · exact .inr rfl
  · exact .inl rfl

theorem State.unitTakesBad_sampled (s : State) : s.Sampled s.unitTakesBad.1 := by
  let x := (s.onClosing Closing.takeBad).countHead fun c => { c with badSamples := c.badSamples + 1 }
  have hx : ∀ u, x.Sampled u → s.Sampled u := fun u ⟨c, n, h⟩ => ⟨c, n, h⟩
  simp only [State.unitTakesBad, State.unitHolds]
  (repeat' split) <;> apply hx
  · exact State.unitHandles_sampled _ _ _ _
  · exact ⟨x.closing, x.counters.head, .inl rfl⟩
  · exact ⟨x.closing.park, x.unitLoses.1.counters.head, .inl rfl⟩
  · exact ⟨x.closing, x.counters.head, .inl rfl⟩

theorem State.unitTakesGood_sampled (s : State) (d : DriveSample) : s.Sampled (s.unitTakesGood d).1 := by
  let x := s.onClosing fun c => c.takeGood d
  have hx : ∀ u, x.Sampled u → s.Sampled u := fun u ⟨c, n, h⟩ => ⟨c, n, h⟩
  simp only [State.unitTakesGood]
  split <;> apply hx
  · exact State.unitHandles_sampled _ _ _ _
  · exact ⟨x.closing, x.counters.head, .inl rfl⟩

/-- What the closing unit's part of a sample event can do. -/
theorem State.unitTakes_sampled (s : State) (e : SampleEvent) : s.Sampled (s.unitTakes e).1 := by
  have hs : s.Sampled s := ⟨s.closing, s.counters.head, .inl rfl⟩
  have hx : ∀ x u : State, x = ((s.withClosing x.closing).countHead fun _ => x.counters.head) →
      x.Sampled u → s.Sampled u := by
    intro x u hx ⟨c, n, h⟩
    rw [hx] at h
    exact ⟨c, n, h⟩
  simp only [State.unitTakes]
  (repeat' split)
  · refine hx _ _ ?_ (State.unitTakesGood_sampled _ _)
    simp only [State.onClosing, State.withClosing, State.countHead, State.withCounters]
  · refine hx _ _ ?_ (State.unitTakesBad_sampled _)
    simp only [State.onClosing, State.withClosing, State.countHead, State.withCounters]
  · refine hx _ _ ?_ (State.unitTakesBad_sampled _)
    simp only [State.onClosing, State.withClosing, State.countHead, State.withCounters]
  · exact hs
  · exact hs

@[simp] theorem State.unitTakes_frame (s : State) (e : SampleEvent) :
    ((s.unitTakes e).1).pending = s.pending ∧ ((s.unitTakes e).1).timeBase = s.timeBase ∧
    ((s.unitTakes e).1).pins = s.pins ∧ ((s.unitTakes e).1).node = s.node ∧
    ((s.unitTakes e).1).memory = s.memory ∧ ((s.unitTakes e).1).config.header = s.config.header ∧
    ((s.unitTakes e).1).config.banks = s.config.banks ∧ ((s.unitTakes e).1).config.usable = s.config.usable ∧
    ((s.unitTakes e).1).config.signature = s.config.signature ∧
    ((s.unitTakes e).1).config.persistent = s.config.persistent ∧ ((s.unitTakes e).1).tracker = s.tracker ∧
    ((s.unitTakes e).1).verdicts = s.verdicts ∧ ((s.unitTakes e).1).transit = s.transit ∧
    ((s.unitTakes e).1).reject = s.reject := by
  obtain ⟨c, n, h | h⟩ := s.unitTakes_sampled e <;> rw [h] <;> simp

@[simp] theorem State.takeSample_frame (s : State) (e : SampleEvent) :
    (s.takeSample e).pending = s.pending ∧ (s.takeSample e).timeBase = s.timeBase ∧
    (s.takeSample e).pins = s.pins ∧ (s.takeSample e).node = s.node ∧ (s.takeSample e).memory = s.memory ∧
    (s.takeSample e).config.header = s.config.header ∧ (s.takeSample e).config.banks = s.config.banks ∧
    (s.takeSample e).config.usable = s.config.usable ∧ (s.takeSample e).config.signature = s.config.signature ∧
    (s.takeSample e).config.persistent = s.config.persistent ∧ (s.takeSample e).tracker = s.tracker ∧
    (s.takeSample e).verdicts = s.verdicts ∧ (s.takeSample e).transit = s.transit ∧
    (s.takeSample e).reject = s.reject := by
  simp [State.takeSample]

@[simp] theorem State.pitchLoss_frame (s : State) :
    (s.pitchLoss).pending = s.pending ∧ (s.pitchLoss).timeBase = s.timeBase ∧ (s.pitchLoss).pins = s.pins ∧
    (s.pitchLoss).node = s.node ∧ (s.pitchLoss).memory = s.memory ∧
    (s.pitchLoss).config.header = s.config.header ∧ (s.pitchLoss).config.banks = s.config.banks ∧
    (s.pitchLoss).config.usable = s.config.usable ∧ (s.pitchLoss).config.signature = s.config.signature ∧
    (s.pitchLoss).config.persistent = s.config.persistent ∧ (s.pitchLoss).verdicts = s.verdicts ∧
    (s.pitchLoss).transit = s.transit ∧ (s.pitchLoss).reject = s.reject := by
  simp [State.pitchLoss]

@[simp] theorem State.lockedUpdate_frame (s : State) (m : Int) :
    (s.lockedUpdate m).pending = s.pending ∧ (s.lockedUpdate m).timeBase = s.timeBase ∧
    (s.lockedUpdate m).pins = s.pins ∧ (s.lockedUpdate m).node = s.node ∧
    (s.lockedUpdate m).memory = s.memory ∧ (s.lockedUpdate m).config.header = s.config.header ∧
    (s.lockedUpdate m).config.banks = s.config.banks ∧ (s.lockedUpdate m).config.usable = s.config.usable ∧
    (s.lockedUpdate m).config.signature = s.config.signature ∧
    (s.lockedUpdate m).config.persistent = s.config.persistent ∧ (s.lockedUpdate m).verdicts = s.verdicts ∧
    (s.lockedUpdate m).transit = s.transit ∧ (s.lockedUpdate m).reject = s.reject := by
  suffices h : ∀ u, s.lockedUpdate m = u → u.pending = s.pending ∧ u.timeBase = s.timeBase ∧
      u.pins = s.pins ∧ u.node = s.node ∧ u.memory = s.memory ∧
    u.config.header = s.config.header ∧ u.config.banks = s.config.banks ∧ u.config.usable = s.config.usable ∧
    u.config.signature = s.config.signature ∧ u.config.persistent = s.config.persistent ∧
    u.verdicts = s.verdicts ∧ u.transit = s.transit ∧ u.reject = s.reject from h _ rfl
  intro u hu
  simp only [State.lockedUpdate] at hu
  (repeat' split at hu) <;> subst hu <;> simp

@[simp] theorem State.takePeriod_frame (s : State) (m : Int) :
    (s.takePeriod m).pending = s.pending ∧ (s.takePeriod m).timeBase = s.timeBase ∧
    (s.takePeriod m).pins = s.pins ∧ (s.takePeriod m).node = s.node ∧ (s.takePeriod m).memory = s.memory ∧
    (s.takePeriod m).config.header = s.config.header ∧ (s.takePeriod m).config.banks = s.config.banks ∧
    (s.takePeriod m).config.usable = s.config.usable ∧
        (s.takePeriod m).config.signature = s.config.signature ∧
    (s.takePeriod m).config.persistent = s.config.persistent ∧ (s.takePeriod m).verdicts = s.verdicts ∧
    (s.takePeriod m).transit = s.transit ∧ (s.takePeriod m).reject = s.reject := by
  suffices h : ∀ u, s.takePeriod m = u → u.pending = s.pending ∧ u.timeBase = s.timeBase ∧ u.pins = s.pins ∧
      u.node = s.node ∧ u.memory = s.memory ∧
    u.config.header = s.config.header ∧ u.config.banks = s.config.banks ∧ u.config.usable = s.config.usable ∧
    u.config.signature = s.config.signature ∧ u.config.persistent = s.config.persistent ∧
    u.verdicts = s.verdicts ∧ u.transit = s.transit ∧ u.reject = s.reject from h _ rfl
  intro u hu
  simp only [State.takePeriod] at hu
  (repeat' split at hu) <;> subst hu <;> simp

@[simp] theorem State.measure_frame (s : State) (t : Time) :
    (s.measure t).pending = s.pending ∧ (s.measure t).timeBase = s.timeBase ∧ (s.measure t).pins = s.pins ∧
    (s.measure t).node = s.node ∧ (s.measure t).memory = s.memory ∧
    (s.measure t).config.header = s.config.header ∧ (s.measure t).config.banks = s.config.banks ∧
    (s.measure t).config.usable = s.config.usable ∧ (s.measure t).config.signature = s.config.signature ∧
    (s.measure t).config.persistent = s.config.persistent ∧ (s.measure t).verdicts = s.verdicts ∧
    (s.measure t).transit = s.transit ∧ (s.measure t).reject = s.reject := by
  suffices h : ∀ u, s.measure t = u → u.pending = s.pending ∧ u.timeBase = s.timeBase ∧ u.pins = s.pins ∧
      u.node = s.node ∧ u.memory = s.memory ∧
    u.config.header = s.config.header ∧ u.config.banks = s.config.banks ∧ u.config.usable = s.config.usable ∧
    u.config.signature = s.config.signature ∧ u.config.persistent = s.config.persistent ∧
    u.verdicts = s.verdicts ∧ u.transit = s.transit ∧ u.reject = s.reject from h _ rfl
  intro u hu
  simp only [State.measure] at hu
  (repeat' split at hu) <;> subst hu <;> simp

@[simp] theorem State.countedPulse_frame (s : State) (t : Time) :
    (s.countedPulse t).pending = s.pending ∧ (s.countedPulse t).timeBase = s.timeBase ∧
    (s.countedPulse t).pins = s.pins ∧ (s.countedPulse t).node = s.node ∧
    (s.countedPulse t).memory = s.memory ∧ (s.countedPulse t).config.header = s.config.header ∧
    (s.countedPulse t).config.banks = s.config.banks ∧ (s.countedPulse t).config.usable = s.config.usable ∧
    (s.countedPulse t).config.signature = s.config.signature ∧
    (s.countedPulse t).config.persistent = s.config.persistent ∧ (s.countedPulse t).transit = s.transit ∧
    (s.countedPulse t).reject = s.reject := by
  suffices h : ∀ u, s.countedPulse t = u → u.pending = s.pending ∧ u.timeBase = s.timeBase ∧
      u.pins = s.pins ∧ u.node = s.node ∧ u.memory = s.memory ∧
    u.config.header = s.config.header ∧ u.config.banks = s.config.banks ∧ u.config.usable = s.config.usable ∧
    u.config.signature = s.config.signature ∧ u.config.persistent = s.config.persistent ∧
    u.transit = s.transit ∧ u.reject = s.reject from h _ rfl
  intro u hu
  simp only [State.countedPulse] at hu
  (repeat' split at hu) <;> subst hu <;> simp

@[simp] theorem State.indexMark_frame (s : State) :
    (s.indexMark).pending = s.pending ∧ (s.indexMark).timeBase = s.timeBase ∧ (s.indexMark).pins = s.pins ∧
    (s.indexMark).node = s.node ∧ (s.indexMark).memory = s.memory ∧
    (s.indexMark).config.header = s.config.header ∧ (s.indexMark).config.banks = s.config.banks ∧
    (s.indexMark).config.usable = s.config.usable ∧ (s.indexMark).config.signature = s.config.signature ∧
    (s.indexMark).config.persistent = s.config.persistent ∧ (s.indexMark).verdicts = s.verdicts ∧
    (s.indexMark).transit = s.transit ∧ (s.indexMark).reject = s.reject := by
  suffices h : ∀ u, s.indexMark = u → u.pending = s.pending ∧ u.timeBase = s.timeBase ∧ u.pins = s.pins ∧
      u.node = s.node ∧ u.memory = s.memory ∧
    u.config.header = s.config.header ∧ u.config.banks = s.config.banks ∧ u.config.usable = s.config.usable ∧
    u.config.signature = s.config.signature ∧ u.config.persistent = s.config.persistent ∧
    u.verdicts = s.verdicts ∧ u.transit = s.transit ∧ u.reject = s.reject from h _ rfl
  intro u hu
  simp only [State.indexMark] at hu
  (repeat' split at hu) <;> subst hu <;> simp

@[simp] theorem State.phaseMoves_frame (s : State) :
    (s.phaseMoves).pending = s.pending ∧ (s.phaseMoves).timeBase = s.timeBase ∧ (s.phaseMoves).pins = s.pins ∧
    (s.phaseMoves).node = s.node ∧ (s.phaseMoves).memory = s.memory ∧
    (s.phaseMoves).config.header = s.config.header ∧ (s.phaseMoves).config.banks = s.config.banks ∧
    (s.phaseMoves).config.usable = s.config.usable ∧ (s.phaseMoves).config.signature = s.config.signature ∧
    (s.phaseMoves).config.persistent = s.config.persistent ∧ (s.phaseMoves).transit = s.transit ∧
    (s.phaseMoves).reject = s.reject := by
  suffices h : ∀ u, s.phaseMoves = u → u.pending = s.pending ∧ u.timeBase = s.timeBase ∧ u.pins = s.pins ∧
      u.node = s.node ∧ u.memory = s.memory ∧
    u.config.header = s.config.header ∧ u.config.banks = s.config.banks ∧ u.config.usable = s.config.usable ∧
    u.config.signature = s.config.signature ∧ u.config.persistent = s.config.persistent ∧
    u.transit = s.transit ∧ u.reject = s.reject from h _ rfl
  intro u hu
  simp only [State.phaseMoves] at hu
  (repeat' split at hu) <;> subst hu <;> simp

@[simp] theorem State.setStop_frame (s : State) (why : StopCause) :
    (s.setStop why).pending = s.pending ∧ (s.setStop why).timeBase = s.timeBase ∧
    (s.setStop why).pins = s.pins ∧ (s.setStop why).node = s.node ∧ (s.setStop why).memory = s.memory ∧
    (s.setStop why).config.header = s.config.header ∧ (s.setStop why).config.banks = s.config.banks ∧
    (s.setStop why).config.usable = s.config.usable ∧ (s.setStop why).config.signature = s.config.signature ∧
    (s.setStop why).config.persistent = s.config.persistent ∧ (s.setStop why).tracker = s.tracker ∧
    (s.setStop why).seq = s.seq ∧ (s.setStop why).steam = s.steam ∧ (s.setStop why).closing = s.closing ∧
    (s.setStop why).verdicts = s.verdicts ∧ (s.setStop why).transit = s.transit := by
  suffices h : ∀ u, s.setStop why = u → u.pending = s.pending ∧ u.timeBase = s.timeBase ∧ u.pins = s.pins ∧
      u.node = s.node ∧ u.memory = s.memory ∧
    u.config.header = s.config.header ∧ u.config.banks = s.config.banks ∧ u.config.usable = s.config.usable ∧
    u.config.signature = s.config.signature ∧ u.config.persistent = s.config.persistent ∧
    u.tracker = s.tracker ∧ u.seq = s.seq ∧ u.steam = s.steam ∧ u.closing = s.closing ∧
    u.verdicts = s.verdicts ∧ u.transit = s.transit from h _ rfl
  intro u hu
  simp only [State.setStop] at hu
  (repeat' split at hu) <;> subst hu <;> simp

@[simp] theorem State.rejectJar_frame (s : State) (x : Position) :
    (s.rejectJar x).pending = s.pending ∧ (s.rejectJar x).timeBase = s.timeBase ∧
    (s.rejectJar x).pins = s.pins ∧ (s.rejectJar x).node = s.node ∧ (s.rejectJar x).memory = s.memory ∧
    (s.rejectJar x).config.header = s.config.header ∧ (s.rejectJar x).config.banks = s.config.banks ∧
    (s.rejectJar x).config.usable = s.config.usable ∧ (s.rejectJar x).config.signature = s.config.signature ∧
    (s.rejectJar x).config.persistent = s.config.persistent ∧ (s.rejectJar x).tracker = s.tracker ∧
    (s.rejectJar x).seq = s.seq ∧ (s.rejectJar x).steam = s.steam ∧ (s.rejectJar x).closing = s.closing ∧
    (s.rejectJar x).verdicts = s.verdicts ∧ (s.rejectJar x).transit = s.transit := by
  suffices h : ∀ u, s.rejectJar x = u → u.pending = s.pending ∧ u.timeBase = s.timeBase ∧ u.pins = s.pins ∧
      u.node = s.node ∧ u.memory = s.memory ∧
    u.config.header = s.config.header ∧ u.config.banks = s.config.banks ∧ u.config.usable = s.config.usable ∧
    u.config.signature = s.config.signature ∧ u.config.persistent = s.config.persistent ∧
    u.tracker = s.tracker ∧ u.seq = s.seq ∧ u.steam = s.steam ∧ u.closing = s.closing ∧
    u.verdicts = s.verdicts ∧ u.transit = s.transit from h _ rfl
  intro u hu
  simp only [State.rejectJar] at hu
  (repeat' split at hu) <;> subst hu <;> simp

@[simp] theorem State.acceptJar_frame (s : State) :
    (s.acceptJar).pending = s.pending ∧ (s.acceptJar).timeBase = s.timeBase ∧ (s.acceptJar).pins = s.pins ∧
    (s.acceptJar).node = s.node ∧ (s.acceptJar).memory = s.memory ∧ (s.acceptJar).config = s.config ∧
    (s.acceptJar).tracker = s.tracker ∧ (s.acceptJar).seq = s.seq ∧ (s.acceptJar).steam = s.steam ∧
    (s.acceptJar).closing = s.closing ∧ (s.acceptJar).verdicts = s.verdicts ∧ (s.acceptJar).link = s.link ∧
    (s.acceptJar).transit = s.transit := by
  simp [State.acceptJar]

@[simp] theorem State.lengthenRun_frame (s : State) :
    (s.lengthenRun).pending = s.pending ∧ (s.lengthenRun).timeBase = s.timeBase ∧
    (s.lengthenRun).pins = s.pins ∧ (s.lengthenRun).node = s.node ∧ (s.lengthenRun).memory = s.memory ∧
    (s.lengthenRun).config.header = s.config.header ∧ (s.lengthenRun).config.banks = s.config.banks ∧
    (s.lengthenRun).config.usable = s.config.usable ∧ (s.lengthenRun).config.signature = s.config.signature ∧
    (s.lengthenRun).config.persistent = s.config.persistent ∧ (s.lengthenRun).tracker = s.tracker ∧
    (s.lengthenRun).seq = s.seq ∧ (s.lengthenRun).steam = s.steam ∧ (s.lengthenRun).closing = s.closing ∧
    (s.lengthenRun).verdicts = s.verdicts ∧ (s.lengthenRun).transit = s.transit := by
  suffices h : ∀ u, s.lengthenRun = u → u.pending = s.pending ∧ u.timeBase = s.timeBase ∧ u.pins = s.pins ∧
      u.node = s.node ∧ u.memory = s.memory ∧
    u.config.header = s.config.header ∧ u.config.banks = s.config.banks ∧ u.config.usable = s.config.usable ∧
    u.config.signature = s.config.signature ∧ u.config.persistent = s.config.persistent ∧
    u.tracker = s.tracker ∧ u.seq = s.seq ∧ u.steam = s.steam ∧ u.closing = s.closing ∧
    u.verdicts = s.verdicts ∧ u.transit = s.transit from h _ rfl
  intro u hu
  simp only [State.lengthenRun] at hu
  (repeat' split at hu) <;> subst hu <;> simp

@[simp] theorem State.sensorReads_frame (s : State) :
    (s.sensorReads).pending = s.pending ∧ (s.sensorReads).timeBase = s.timeBase ∧
    (s.sensorReads).pins = s.pins ∧ (s.sensorReads).node = s.node ∧ (s.sensorReads).memory = s.memory ∧
    (s.sensorReads).config.header = s.config.header ∧ (s.sensorReads).config.banks = s.config.banks ∧
    (s.sensorReads).config.usable = s.config.usable ∧ (s.sensorReads).config.signature = s.config.signature ∧
    (s.sensorReads).config.persistent = s.config.persistent ∧ (s.sensorReads).tracker = s.tracker ∧
    (s.sensorReads).seq = s.seq ∧ (s.sensorReads).steam = s.steam ∧ (s.sensorReads).closing = s.closing ∧
    (s.sensorReads).verdicts = s.verdicts ∧ (s.sensorReads).transit = s.transit := by
  suffices h : ∀ u, s.sensorReads = u → u.pending = s.pending ∧ u.timeBase = s.timeBase ∧ u.pins = s.pins ∧
      u.node = s.node ∧ u.memory = s.memory ∧
    u.config.header = s.config.header ∧ u.config.banks = s.config.banks ∧ u.config.usable = s.config.usable ∧
    u.config.signature = s.config.signature ∧ u.config.persistent = s.config.persistent ∧
    u.tracker = s.tracker ∧ u.seq = s.seq ∧ u.steam = s.steam ∧ u.closing = s.closing ∧
    u.verdicts = s.verdicts ∧ u.transit = s.transit from h _ rfl
  intro u hu
  simp only [State.sensorReads] at hu
  (repeat' split at hu) <;> subst hu <;> simp

@[simp] theorem State.judge_frame (s : State) (e : Matched) (x : Position) (reading : Option SensorReading) :
    (s.judge e x reading).pending = s.pending ∧ (s.judge e x reading).timeBase = s.timeBase ∧
    (s.judge e x reading).pins = s.pins ∧ (s.judge e x reading).node = s.node ∧
    (s.judge e x reading).memory = s.memory ∧ (s.judge e x reading).config.header = s.config.header ∧
    (s.judge e x reading).config.banks = s.config.banks ∧
    (s.judge e x reading).config.usable = s.config.usable ∧
    (s.judge e x reading).config.signature = s.config.signature ∧
    (s.judge e x reading).config.persistent = s.config.persistent ∧
        (s.judge e x reading).tracker = s.tracker ∧
    (s.judge e x reading).seq = s.seq ∧ (s.judge e x reading).steam = s.steam ∧
    (s.judge e x reading).closing = s.closing ∧ (s.judge e x reading).verdicts = s.verdicts ∧
    (s.judge e x reading).transit = s.transit := by
  suffices h : ∀ u, s.judge e x reading = u → u.pending = s.pending ∧ u.timeBase = s.timeBase ∧
      u.pins = s.pins ∧ u.node = s.node ∧ u.memory = s.memory ∧
    u.config.header = s.config.header ∧ u.config.banks = s.config.banks ∧ u.config.usable = s.config.usable ∧
    u.config.signature = s.config.signature ∧ u.config.persistent = s.config.persistent ∧
    u.tracker = s.tracker ∧ u.seq = s.seq ∧ u.steam = s.steam ∧ u.closing = s.closing ∧
    u.verdicts = s.verdicts ∧ u.transit = s.transit from h _ rfl
  intro u hu
  simp only [State.judge] at hu
  (repeat' split at hu) <;> subst hu <;> simp

@[simp] theorem State.settleSlot_frame (s : State) :
    (s.settleSlot).pending = s.pending ∧ (s.settleSlot).timeBase = s.timeBase ∧ (s.settleSlot).pins = s.pins ∧
    (s.settleSlot).node = s.node ∧ (s.settleSlot).memory = s.memory ∧
    (s.settleSlot).config.header = s.config.header ∧ (s.settleSlot).config.banks = s.config.banks ∧
    (s.settleSlot).config.usable = s.config.usable ∧ (s.settleSlot).config.signature = s.config.signature ∧
    (s.settleSlot).config.persistent = s.config.persistent ∧ (s.settleSlot).tracker = s.tracker ∧
    (s.settleSlot).seq = s.seq ∧ (s.settleSlot).steam = s.steam ∧ (s.settleSlot).closing = s.closing ∧
    (s.settleSlot).verdicts = s.verdicts ∧ (s.settleSlot).transit = s.transit := by
  suffices h : ∀ u, s.settleSlot = u → u.pending = s.pending ∧ u.timeBase = s.timeBase ∧ u.pins = s.pins ∧
      u.node = s.node ∧ u.memory = s.memory ∧
    u.config.header = s.config.header ∧ u.config.banks = s.config.banks ∧ u.config.usable = s.config.usable ∧
    u.config.signature = s.config.signature ∧ u.config.persistent = s.config.persistent ∧
    u.tracker = s.tracker ∧ u.seq = s.seq ∧ u.steam = s.steam ∧ u.closing = s.closing ∧
    u.verdicts = s.verdicts ∧ u.transit = s.transit from h _ rfl
  intro u hu
  simp only [State.settleSlot] at hu
  (repeat' split at hu) <;> subst hu <;> simp

@[simp] theorem State.takeMatch_frame (s : State) (e : Matched) (x : Position) :
    (s.takeMatch e x).pending = s.pending ∧ (s.takeMatch e x).timeBase = s.timeBase ∧
    (s.takeMatch e x).pins = s.pins ∧ (s.takeMatch e x).node = s.node ∧ (s.takeMatch e x).memory = s.memory ∧
    (s.takeMatch e x).config.header = s.config.header ∧ (s.takeMatch e x).config.banks = s.config.banks ∧
    (s.takeMatch e x).config.usable = s.config.usable ∧
    (s.takeMatch e x).config.signature = s.config.signature ∧
    (s.takeMatch e x).config.persistent = s.config.persistent ∧ (s.takeMatch e x).tracker = s.tracker ∧
    (s.takeMatch e x).seq = s.seq ∧ (s.takeMatch e x).steam = s.steam ∧
        (s.takeMatch e x).closing = s.closing ∧
    (s.takeMatch e x).verdicts = s.verdicts ∧ (s.takeMatch e x).transit = s.transit := by
  simp [State.takeMatch]

@[simp] theorem State.takeStray_frame (s : State) (x : Position) :
    (s.takeStray x).pending = s.pending ∧ (s.takeStray x).timeBase = s.timeBase ∧
    (s.takeStray x).pins = s.pins ∧ (s.takeStray x).node = s.node ∧ (s.takeStray x).memory = s.memory ∧
    (s.takeStray x).config.header = s.config.header ∧ (s.takeStray x).config.banks = s.config.banks ∧
    (s.takeStray x).config.usable = s.config.usable ∧ (s.takeStray x).config.signature = s.config.signature ∧
    (s.takeStray x).config.persistent = s.config.persistent ∧ (s.takeStray x).tracker = s.tracker ∧
    (s.takeStray x).seq = s.seq ∧ (s.takeStray x).steam = s.steam ∧ (s.takeStray x).closing = s.closing ∧
    (s.takeStray x).verdicts = s.verdicts ∧ (s.takeStray x).transit = s.transit := by
  simp [State.takeStray]

@[simp] theorem State.takeReading_frame (s : State) (reading : SensorReading) :
    (s.takeReading reading).pending = s.pending ∧ (s.takeReading reading).timeBase = s.timeBase ∧
    (s.takeReading reading).pins = s.pins ∧ (s.takeReading reading).node = s.node ∧
    (s.takeReading reading).memory = s.memory ∧ (s.takeReading reading).config.header = s.config.header ∧
    (s.takeReading reading).config.banks = s.config.banks ∧
    (s.takeReading reading).config.usable = s.config.usable ∧
    (s.takeReading reading).config.signature = s.config.signature ∧
    (s.takeReading reading).config.persistent = s.config.persistent ∧
    (s.takeReading reading).tracker = s.tracker ∧ (s.takeReading reading).seq = s.seq ∧
    (s.takeReading reading).steam = s.steam ∧ (s.takeReading reading).closing = s.closing ∧
    (s.takeReading reading).verdicts = s.verdicts ∧ (s.takeReading reading).transit = s.transit := by
  suffices h : ∀ u, s.takeReading reading = u → u.pending = s.pending ∧ u.timeBase = s.timeBase ∧
      u.pins = s.pins ∧ u.node = s.node ∧ u.memory = s.memory ∧
    u.config.header = s.config.header ∧ u.config.banks = s.config.banks ∧ u.config.usable = s.config.usable ∧
    u.config.signature = s.config.signature ∧ u.config.persistent = s.config.persistent ∧
    u.tracker = s.tracker ∧ u.seq = s.seq ∧ u.steam = s.steam ∧ u.closing = s.closing ∧
    u.verdicts = s.verdicts ∧ u.transit = s.transit from h _ rfl
  intro u hu
  simp only [State.takeReading] at hu
  (repeat' split at hu) <;> subst hu <;> simp

@[simp] theorem State.pulseGate_frame (s : State) :
    (s.pulseGate).pending = s.pending ∧ (s.pulseGate).timeBase = s.timeBase ∧ (s.pulseGate).pins = s.pins ∧
    (s.pulseGate).node = s.node ∧ (s.pulseGate).memory = s.memory ∧ (s.pulseGate).config = s.config ∧
    (s.pulseGate).counters = s.counters ∧ (s.pulseGate).tracker = s.tracker ∧ (s.pulseGate).seq = s.seq ∧
    (s.pulseGate).steam = s.steam ∧ (s.pulseGate).closing = s.closing ∧ (s.pulseGate).verdicts = s.verdicts ∧
    (s.pulseGate).link = s.link ∧ (s.pulseGate).transit = s.transit := by
  simp [State.pulseGate]

@[simp] theorem State.fireGates_frame (s : State) :
    (s.fireGates).pending = s.pending ∧ (s.fireGates).timeBase = s.timeBase ∧ (s.fireGates).pins = s.pins ∧
    (s.fireGates).node = s.node ∧ (s.fireGates).memory = s.memory ∧ (s.fireGates).config = s.config ∧
    (s.fireGates).counters = s.counters ∧ (s.fireGates).tracker = s.tracker ∧ (s.fireGates).seq = s.seq ∧
    (s.fireGates).steam = s.steam ∧ (s.fireGates).closing = s.closing ∧ (s.fireGates).verdicts = s.verdicts ∧
    (s.fireGates).link = s.link ∧ (s.fireGates).transit = s.transit := by
  suffices h : ∀ u, s.fireGates = u → u.pending = s.pending ∧ u.timeBase = s.timeBase ∧ u.pins = s.pins ∧
      u.node = s.node ∧ u.memory = s.memory ∧
    u.config = s.config ∧ u.counters = s.counters ∧ u.tracker = s.tracker ∧ u.seq = s.seq ∧
        u.steam = s.steam ∧
    u.closing = s.closing ∧ u.verdicts = s.verdicts ∧ u.link = s.link ∧ u.transit = s.transit from h _ rfl
  intro u hu
  simp only [State.fireGates] at hu
  (repeat' split at hu) <;> subst hu <;> simp

@[simp] theorem State.endPulse_frame (s : State) :
    (s.endPulse).pending = s.pending ∧ (s.endPulse).timeBase = s.timeBase ∧ (s.endPulse).pins = s.pins ∧
    (s.endPulse).node = s.node ∧ (s.endPulse).memory = s.memory ∧ (s.endPulse).config = s.config ∧
    (s.endPulse).counters = s.counters ∧ (s.endPulse).tracker = s.tracker ∧ (s.endPulse).seq = s.seq ∧
    (s.endPulse).steam = s.steam ∧ (s.endPulse).closing = s.closing ∧ (s.endPulse).verdicts = s.verdicts ∧
    (s.endPulse).link = s.link ∧ (s.endPulse).transit = s.transit := by
  suffices h : ∀ u, s.endPulse = u → u.pending = s.pending ∧ u.timeBase = s.timeBase ∧ u.pins = s.pins ∧
      u.node = s.node ∧ u.memory = s.memory ∧
    u.config = s.config ∧ u.counters = s.counters ∧ u.tracker = s.tracker ∧ u.seq = s.seq ∧
        u.steam = s.steam ∧
    u.closing = s.closing ∧ u.verdicts = s.verdicts ∧ u.link = s.link ∧ u.transit = s.transit from h _ rfl
  intro u hu
  simp only [State.endPulse] at hu
  (repeat' split at hu) <;> subst hu <;> simp

@[simp] theorem State.appendEntry_frame (s : State) (e : TransitEntry) :
    (s.appendEntry e).pending = s.pending ∧ (s.appendEntry e).timeBase = s.timeBase ∧
    (s.appendEntry e).pins = s.pins ∧ (s.appendEntry e).node = s.node ∧ (s.appendEntry e).memory = s.memory ∧
    (s.appendEntry e).config = s.config ∧ (s.appendEntry e).tracker = s.tracker ∧
    (s.appendEntry e).seq = s.seq ∧ (s.appendEntry e).steam = s.steam ∧
        (s.appendEntry e).closing = s.closing ∧
    (s.appendEntry e).verdicts = s.verdicts ∧ (s.appendEntry e).link = s.link ∧
    (s.appendEntry e).reject = s.reject := by
  suffices h : ∀ u, s.appendEntry e = u → u.pending = s.pending ∧ u.timeBase = s.timeBase ∧
      u.pins = s.pins ∧ u.node = s.node ∧ u.memory = s.memory ∧
    u.config = s.config ∧ u.tracker = s.tracker ∧ u.seq = s.seq ∧ u.steam = s.steam ∧ u.closing = s.closing ∧
    u.verdicts = s.verdicts ∧ u.link = s.link ∧ u.reject = s.reject from h _ rfl
  intro u hu
  simp only [State.appendEntry] at hu
  (repeat' split at hu) <;> subst hu <;> simp

@[simp] theorem State.appendGap_frame (s : State) (p : Nat) :
    (s.appendGap p).pending = s.pending ∧ (s.appendGap p).timeBase = s.timeBase ∧
    (s.appendGap p).pins = s.pins ∧ (s.appendGap p).node = s.node ∧ (s.appendGap p).memory = s.memory ∧
    (s.appendGap p).config = s.config ∧ (s.appendGap p).tracker = s.tracker ∧ (s.appendGap p).seq = s.seq ∧
    (s.appendGap p).steam = s.steam ∧ (s.appendGap p).closing = s.closing ∧
    (s.appendGap p).verdicts = s.verdicts ∧ (s.appendGap p).link = s.link ∧
    (s.appendGap p).reject = s.reject := by
  simp [State.appendGap]

@[simp] theorem State.appendGaps_frame (s : State) (e m : Nat) :
    (s.appendGaps e m).pending = s.pending ∧ (s.appendGaps e m).timeBase = s.timeBase ∧
    (s.appendGaps e m).pins = s.pins ∧ (s.appendGaps e m).node = s.node ∧
    (s.appendGaps e m).memory = s.memory ∧ (s.appendGaps e m).config = s.config ∧
    (s.appendGaps e m).tracker = s.tracker ∧ (s.appendGaps e m).seq = s.seq ∧
    (s.appendGaps e m).steam = s.steam ∧ (s.appendGaps e m).closing = s.closing ∧
    (s.appendGaps e m).verdicts = s.verdicts ∧ (s.appendGaps e m).link = s.link ∧
    (s.appendGaps e m).reject = s.reject := by
  have h : ∀ (q : List Nat) (s : State),
      (q.foldl State.appendGap s).pending = s.pending ∧
      (q.foldl State.appendGap s).timeBase = s.timeBase ∧
      (q.foldl State.appendGap s).pins = s.pins ∧
      (q.foldl State.appendGap s).node = s.node ∧
      (q.foldl State.appendGap s).memory = s.memory ∧
      (q.foldl State.appendGap s).config = s.config ∧
      (q.foldl State.appendGap s).tracker = s.tracker ∧
      (q.foldl State.appendGap s).seq = s.seq ∧
      (q.foldl State.appendGap s).steam = s.steam ∧
      (q.foldl State.appendGap s).closing = s.closing ∧
      (q.foldl State.appendGap s).verdicts = s.verdicts ∧
      (q.foldl State.appendGap s).link = s.link ∧
      (q.foldl State.appendGap s).reject = s.reject := by
    intro q
    induction q with
    | nil => intro s; simp
    | cons x q ih =>
      intro s
      simp only [List.foldl_cons, ih]
      simp
  simp [State.appendGaps, h]

@[simp] theorem State.reckonGaps_frame (s : State) (p : Nat) :
    (s.reckonGaps p).pending = s.pending ∧ (s.reckonGaps p).timeBase = s.timeBase ∧
    (s.reckonGaps p).pins = s.pins ∧ (s.reckonGaps p).node = s.node ∧ (s.reckonGaps p).memory = s.memory ∧
    (s.reckonGaps p).config = s.config ∧ (s.reckonGaps p).tracker = s.tracker ∧ (s.reckonGaps p).seq = s.seq ∧
    (s.reckonGaps p).steam = s.steam ∧ (s.reckonGaps p).closing = s.closing ∧
    (s.reckonGaps p).verdicts = s.verdicts ∧ (s.reckonGaps p).link = s.link ∧
    (s.reckonGaps p).reject = s.reject := by
  suffices h : ∀ u, s.reckonGaps p = u → u.pending = s.pending ∧ u.timeBase = s.timeBase ∧ u.pins = s.pins ∧
      u.node = s.node ∧ u.memory = s.memory ∧
    u.config = s.config ∧ u.tracker = s.tracker ∧ u.seq = s.seq ∧ u.steam = s.steam ∧ u.closing = s.closing ∧
    u.verdicts = s.verdicts ∧ u.link = s.link ∧ u.reject = s.reject from h _ rfl
  intro u hu
  simp only [State.reckonGaps] at hu
  (repeat' split at hu) <;> subst hu <;> simp

@[simp] theorem State.takeRecord_frame (s : State) (p : Nat) (revolution : Half) (entry : TransitEntry) :
    (s.takeRecord p revolution entry).pending = s.pending ∧
    (s.takeRecord p revolution entry).timeBase = s.timeBase ∧
        (s.takeRecord p revolution entry).pins = s.pins ∧
    (s.takeRecord p revolution entry).node = s.node ∧ (s.takeRecord p revolution entry).memory = s.memory ∧
    (s.takeRecord p revolution entry).config = s.config ∧
    (s.takeRecord p revolution entry).tracker = s.tracker ∧ (s.takeRecord p revolution entry).seq = s.seq ∧
    (s.takeRecord p revolution entry).steam = s.steam ∧
        (s.takeRecord p revolution entry).closing = s.closing ∧
    (s.takeRecord p revolution entry).verdicts = s.verdicts ∧
        (s.takeRecord p revolution entry).link = s.link ∧
    (s.takeRecord p revolution entry).reject = s.reject := by
  suffices h : ∀ u, s.takeRecord p revolution entry = u → u.pending = s.pending ∧ u.timeBase = s.timeBase ∧
      u.pins = s.pins ∧ u.node = s.node ∧ u.memory = s.memory ∧
    u.config = s.config ∧ u.tracker = s.tracker ∧ u.seq = s.seq ∧ u.steam = s.steam ∧ u.closing = s.closing ∧
    u.verdicts = s.verdicts ∧ u.link = s.link ∧ u.reject = s.reject from h _ rfl
  intro u hu
  simp only [State.takeRecord] at hu
  (repeat' split at hu) <;> subst hu <;> simp

@[simp] theorem State.takeSeal_frame (s : State) (sender : Address) (x : SealPayload) :
    (s.takeSeal sender x).pending = s.pending ∧ (s.takeSeal sender x).timeBase = s.timeBase ∧
    (s.takeSeal sender x).pins = s.pins ∧ (s.takeSeal sender x).node = s.node ∧
    (s.takeSeal sender x).memory = s.memory ∧ (s.takeSeal sender x).config = s.config ∧
    (s.takeSeal sender x).tracker = s.tracker ∧ (s.takeSeal sender x).seq = s.seq ∧
    (s.takeSeal sender x).steam = s.steam ∧ (s.takeSeal sender x).closing = s.closing ∧
    (s.takeSeal sender x).verdicts = s.verdicts ∧ (s.takeSeal sender x).link = s.link ∧
    (s.takeSeal sender x).reject = s.reject := by
  suffices h : ∀ u, s.takeSeal sender x = u → u.pending = s.pending ∧ u.timeBase = s.timeBase ∧
      u.pins = s.pins ∧ u.node = s.node ∧ u.memory = s.memory ∧
    u.config = s.config ∧ u.tracker = s.tracker ∧ u.seq = s.seq ∧ u.steam = s.steam ∧ u.closing = s.closing ∧
    u.verdicts = s.verdicts ∧ u.link = s.link ∧ u.reject = s.reject from h _ rfl
  intro u hu
  simp only [State.takeSeal] at hu
  (repeat' split at hu) <;> subst hu <;> simp

@[simp] theorem State.takeVoid_frame (s : State) (sender : Address) (x : VoidPayload) :
    (s.takeVoid sender x).pending = s.pending ∧ (s.takeVoid sender x).timeBase = s.timeBase ∧
    (s.takeVoid sender x).pins = s.pins ∧ (s.takeVoid sender x).node = s.node ∧
    (s.takeVoid sender x).memory = s.memory ∧ (s.takeVoid sender x).config = s.config ∧
    (s.takeVoid sender x).tracker = s.tracker ∧ (s.takeVoid sender x).seq = s.seq ∧
    (s.takeVoid sender x).steam = s.steam ∧ (s.takeVoid sender x).closing = s.closing ∧
    (s.takeVoid sender x).verdicts = s.verdicts ∧ (s.takeVoid sender x).link = s.link ∧
    (s.takeVoid sender x).reject = s.reject := by
  suffices h : ∀ u, s.takeVoid sender x = u → u.pending = s.pending ∧ u.timeBase = s.timeBase ∧
      u.pins = s.pins ∧ u.node = s.node ∧ u.memory = s.memory ∧
    u.config = s.config ∧ u.tracker = s.tracker ∧ u.seq = s.seq ∧ u.steam = s.steam ∧ u.closing = s.closing ∧
    u.verdicts = s.verdicts ∧ u.link = s.link ∧ u.reject = s.reject from h _ rfl
  intro u hu
  simp only [State.takeVoid] at hu
  (repeat' split at hu) <;> subst hu <;> simp

@[simp] theorem State.forgetRevolution_frame (s : State) (sender : Address) :
    (s.forgetRevolution sender).pending = s.pending ∧ (s.forgetRevolution sender).timeBase = s.timeBase ∧
    (s.forgetRevolution sender).pins = s.pins ∧ (s.forgetRevolution sender).node = s.node ∧
    (s.forgetRevolution sender).memory = s.memory ∧ (s.forgetRevolution sender).config = s.config ∧
    (s.forgetRevolution sender).counters = s.counters ∧ (s.forgetRevolution sender).tracker = s.tracker ∧
    (s.forgetRevolution sender).seq = s.seq ∧ (s.forgetRevolution sender).steam = s.steam ∧
    (s.forgetRevolution sender).closing = s.closing ∧ (s.forgetRevolution sender).verdicts = s.verdicts ∧
    (s.forgetRevolution sender).link = s.link ∧ (s.forgetRevolution sender).reject = s.reject := by
  suffices h : ∀ u, s.forgetRevolution sender = u → u.pending = s.pending ∧ u.timeBase = s.timeBase ∧
      u.pins = s.pins ∧ u.node = s.node ∧ u.memory = s.memory ∧
    u.config = s.config ∧ u.counters = s.counters ∧ u.tracker = s.tracker ∧ u.seq = s.seq ∧
        u.steam = s.steam ∧
    u.closing = s.closing ∧ u.verdicts = s.verdicts ∧ u.link = s.link ∧ u.reject = s.reject from h _ rfl
  intro u hu
  simp only [State.forgetRevolution] at hu
  (repeat' split at hu) <;> subst hu <;> simp

@[simp] theorem State.closeWindow_frame (s : State) (x : TransitEntry) :
    (s.closeWindow x).pending = s.pending ∧ (s.closeWindow x).timeBase = s.timeBase ∧
    (s.closeWindow x).pins = s.pins ∧ (s.closeWindow x).node = s.node ∧ (s.closeWindow x).memory = s.memory ∧
    (s.closeWindow x).config.header = s.config.header ∧ (s.closeWindow x).config.banks = s.config.banks ∧
    (s.closeWindow x).config.usable = s.config.usable ∧
    (s.closeWindow x).config.signature = s.config.signature ∧
    (s.closeWindow x).config.persistent = s.config.persistent ∧ (s.closeWindow x).tracker = s.tracker ∧
    (s.closeWindow x).seq = s.seq ∧ (s.closeWindow x).steam = s.steam ∧
        (s.closeWindow x).closing = s.closing ∧
    (s.closeWindow x).verdicts = s.verdicts ∧ (s.closeWindow x).transit = s.transit ∧
    (s.closeWindow x).reject = s.reject := by
  suffices h : ∀ u, s.closeWindow x = u → u.pending = s.pending ∧ u.timeBase = s.timeBase ∧
      u.pins = s.pins ∧ u.node = s.node ∧ u.memory = s.memory ∧
    u.config.header = s.config.header ∧ u.config.banks = s.config.banks ∧ u.config.usable = s.config.usable ∧
    u.config.signature = s.config.signature ∧ u.config.persistent = s.config.persistent ∧
    u.tracker = s.tracker ∧ u.seq = s.seq ∧ u.steam = s.steam ∧ u.closing = s.closing ∧
    u.verdicts = s.verdicts ∧ u.transit = s.transit ∧ u.reject = s.reject from h _ rfl
  intro u hu
  simp only [State.closeWindow] at hu
  (repeat' split at hu) <;> subst hu <;> simp

@[simp] theorem State.closeWindows_frame (s : State) :
    (s.closeWindows).pending = s.pending ∧ (s.closeWindows).timeBase = s.timeBase ∧
    (s.closeWindows).pins = s.pins ∧ (s.closeWindows).node = s.node ∧ (s.closeWindows).memory = s.memory ∧
    (s.closeWindows).config.header = s.config.header ∧ (s.closeWindows).config.banks = s.config.banks ∧
    (s.closeWindows).config.usable = s.config.usable ∧
        (s.closeWindows).config.signature = s.config.signature ∧
    (s.closeWindows).config.persistent = s.config.persistent ∧ (s.closeWindows).tracker = s.tracker ∧
    (s.closeWindows).seq = s.seq ∧ (s.closeWindows).steam = s.steam ∧ (s.closeWindows).closing = s.closing ∧
    (s.closeWindows).verdicts = s.verdicts ∧ (s.closeWindows).reject = s.reject := by
  have h : ∀ (q : List TransitEntry) (s : State),
      (q.foldl State.closeWindow s).pending = s.pending ∧
      (q.foldl State.closeWindow s).timeBase = s.timeBase ∧
      (q.foldl State.closeWindow s).pins = s.pins ∧
      (q.foldl State.closeWindow s).node = s.node ∧
      (q.foldl State.closeWindow s).memory = s.memory ∧
      (q.foldl State.closeWindow s).config.header = s.config.header ∧
      (q.foldl State.closeWindow s).config.banks = s.config.banks ∧
      (q.foldl State.closeWindow s).config.usable = s.config.usable ∧
      (q.foldl State.closeWindow s).config.signature = s.config.signature ∧
      (q.foldl State.closeWindow s).config.persistent = s.config.persistent ∧
      (q.foldl State.closeWindow s).tracker = s.tracker ∧
      (q.foldl State.closeWindow s).seq = s.seq ∧
      (q.foldl State.closeWindow s).steam = s.steam ∧
      (q.foldl State.closeWindow s).closing = s.closing ∧
      (q.foldl State.closeWindow s).verdicts = s.verdicts ∧
      (q.foldl State.closeWindow s).reject = s.reject := by
    intro q
    induction q with
    | nil => intro s; simp
    | cons x q ih =>
      intro s
      simp only [List.foldl_cons, ih]
      simp
  simp [State.closeWindows, h]

@[simp] theorem State.strayArrives_frame (s : State) :
    (s.strayArrives).pending = s.pending ∧ (s.strayArrives).timeBase = s.timeBase ∧
    (s.strayArrives).pins = s.pins ∧ (s.strayArrives).node = s.node ∧ (s.strayArrives).memory = s.memory ∧
    (s.strayArrives).config.header = s.config.header ∧ (s.strayArrives).config.banks = s.config.banks ∧
    (s.strayArrives).config.usable = s.config.usable ∧
        (s.strayArrives).config.signature = s.config.signature ∧
    (s.strayArrives).config.persistent = s.config.persistent ∧ (s.strayArrives).tracker = s.tracker ∧
    (s.strayArrives).seq = s.seq ∧ (s.strayArrives).steam = s.steam ∧ (s.strayArrives).closing = s.closing ∧
    (s.strayArrives).verdicts = s.verdicts ∧ (s.strayArrives).transit = s.transit := by
  simp [State.strayArrives]

@[simp] theorem State.jarArrives_frame (s : State) :
    (s.jarArrives).pending = s.pending ∧ (s.jarArrives).timeBase = s.timeBase ∧ (s.jarArrives).pins = s.pins ∧
    (s.jarArrives).node = s.node ∧ (s.jarArrives).memory = s.memory ∧
    (s.jarArrives).config.header = s.config.header ∧ (s.jarArrives).config.banks = s.config.banks ∧
    (s.jarArrives).config.usable = s.config.usable ∧ (s.jarArrives).config.signature = s.config.signature ∧
    (s.jarArrives).config.persistent = s.config.persistent ∧ (s.jarArrives).tracker = s.tracker ∧
    (s.jarArrives).seq = s.seq ∧ (s.jarArrives).steam = s.steam ∧ (s.jarArrives).closing = s.closing ∧
    (s.jarArrives).verdicts = s.verdicts := by
  suffices h : ∀ u, s.jarArrives = u → u.pending = s.pending ∧ u.timeBase = s.timeBase ∧ u.pins = s.pins ∧
      u.node = s.node ∧ u.memory = s.memory ∧
    u.config.header = s.config.header ∧ u.config.banks = s.config.banks ∧ u.config.usable = s.config.usable ∧
    u.config.signature = s.config.signature ∧ u.config.persistent = s.config.persistent ∧
    u.tracker = s.tracker ∧ u.seq = s.seq ∧ u.steam = s.steam ∧ u.closing = s.closing ∧
    u.verdicts = s.verdicts from h _ rfl
  intro u hu
  simp only [State.jarArrives] at hu
  (repeat' split at hu) <;> subst hu <;> simp

@[simp] theorem State.opSelectBank_frame (s : State) (arg : Byte) :
    (s.opSelectBank arg).pending = s.pending ∧ (s.opSelectBank arg).timeBase = s.timeBase ∧
    (s.opSelectBank arg).pins = s.pins ∧ (s.opSelectBank arg).node = s.node ∧
    (s.opSelectBank arg).memory = s.memory ∧ (s.opSelectBank arg).config = s.config ∧
    (s.opSelectBank arg).tracker = s.tracker ∧ (s.opSelectBank arg).steam = s.steam ∧
    (s.opSelectBank arg).closing = s.closing ∧ (s.opSelectBank arg).verdicts = s.verdicts ∧
    (s.opSelectBank arg).link = s.link ∧ (s.opSelectBank arg).transit = s.transit ∧
    (s.opSelectBank arg).reject = s.reject := by
  suffices h : ∀ u, s.opSelectBank arg = u → u.pending = s.pending ∧ u.timeBase = s.timeBase ∧
      u.pins = s.pins ∧ u.node = s.node ∧ u.memory = s.memory ∧
    u.config = s.config ∧ u.tracker = s.tracker ∧ u.steam = s.steam ∧ u.closing = s.closing ∧
    u.verdicts = s.verdicts ∧ u.link = s.link ∧ u.transit = s.transit ∧ u.reject = s.reject from h _ rfl
  intro u hu
  simp only [State.opSelectBank] at hu
  (repeat' split at hu) <;> subst hu <;> simp

@[simp] theorem State.opLockAction_frame (s : State) (arrives : LockAction) :
    (s.opLockAction arrives).pending = s.pending ∧ (s.opLockAction arrives).timeBase = s.timeBase ∧
    (s.opLockAction arrives).pins = s.pins ∧ (s.opLockAction arrives).node = s.node ∧
    (s.opLockAction arrives).memory = s.memory ∧ (s.opLockAction arrives).config = s.config ∧
    (s.opLockAction arrives).tracker = s.tracker ∧ (s.opLockAction arrives).steam = s.steam ∧
    (s.opLockAction arrives).closing = s.closing ∧ (s.opLockAction arrives).verdicts = s.verdicts ∧
    (s.opLockAction arrives).link = s.link ∧ (s.opLockAction arrives).transit = s.transit ∧
    (s.opLockAction arrives).reject = s.reject := by
  suffices h : ∀ u, s.opLockAction arrives = u → u.pending = s.pending ∧ u.timeBase = s.timeBase ∧
      u.pins = s.pins ∧ u.node = s.node ∧ u.memory = s.memory ∧
    u.config = s.config ∧ u.tracker = s.tracker ∧ u.steam = s.steam ∧ u.closing = s.closing ∧
    u.verdicts = s.verdicts ∧ u.link = s.link ∧ u.transit = s.transit ∧ u.reject = s.reject from h _ rfl
  intro u hu
  simp only [State.opLockAction] at hu
  (repeat' split at hu) <;> subst hu <;> simp

@[simp] theorem State.opTrimReset_frame (s : State) :
    (s.opTrimReset).pending = s.pending ∧ (s.opTrimReset).timeBase = s.timeBase ∧
    (s.opTrimReset).pins = s.pins ∧ (s.opTrimReset).node = s.node ∧ (s.opTrimReset).memory = s.memory ∧
    (s.opTrimReset).config.header = s.config.header ∧ (s.opTrimReset).config.banks = s.config.banks ∧
    (s.opTrimReset).config.usable = s.config.usable ∧ (s.opTrimReset).config.signature = s.config.signature ∧
    (s.opTrimReset).config.persistent = s.config.persistent ∧ (s.opTrimReset).tracker = s.tracker ∧
    (s.opTrimReset).seq = s.seq ∧ (s.opTrimReset).steam = s.steam ∧ (s.opTrimReset).closing = s.closing ∧
    (s.opTrimReset).transit = s.transit ∧ (s.opTrimReset).reject = s.reject := by
  suffices h : ∀ u, s.opTrimReset = u → u.pending = s.pending ∧ u.timeBase = s.timeBase ∧ u.pins = s.pins ∧
      u.node = s.node ∧ u.memory = s.memory ∧
    u.config.header = s.config.header ∧ u.config.banks = s.config.banks ∧ u.config.usable = s.config.usable ∧
    u.config.signature = s.config.signature ∧ u.config.persistent = s.config.persistent ∧
    u.tracker = s.tracker ∧ u.seq = s.seq ∧ u.steam = s.steam ∧ u.closing = s.closing ∧
        u.transit = s.transit ∧
    u.reject = s.reject from h _ rfl
  intro u hu
  simp only [State.opTrimReset] at hu
  (repeat' split at hu) <;> subst hu <;> simp

@[simp] theorem State.opClearCounts_frame (s : State) :
    (s.opClearCounts).pending = s.pending ∧ (s.opClearCounts).timeBase = s.timeBase ∧
    (s.opClearCounts).pins = s.pins ∧ (s.opClearCounts).node = s.node ∧ (s.opClearCounts).memory = s.memory ∧
    (s.opClearCounts).config.header = s.config.header ∧ (s.opClearCounts).config.banks = s.config.banks ∧
    (s.opClearCounts).config.usable = s.config.usable ∧
    (s.opClearCounts).config.signature = s.config.signature ∧
    (s.opClearCounts).config.persistent = s.config.persistent ∧ (s.opClearCounts).tracker = s.tracker ∧
    (s.opClearCounts).seq = s.seq ∧ (s.opClearCounts).steam = s.steam ∧
        (s.opClearCounts).closing = s.closing ∧
    (s.opClearCounts).verdicts = s.verdicts ∧ (s.opClearCounts).link = s.link ∧
    (s.opClearCounts).transit = s.transit ∧ (s.opClearCounts).reject = s.reject := by
  suffices h : ∀ u, s.opClearCounts = u → u.pending = s.pending ∧ u.timeBase = s.timeBase ∧
      u.pins = s.pins ∧ u.node = s.node ∧ u.memory = s.memory ∧
    u.config.header = s.config.header ∧ u.config.banks = s.config.banks ∧ u.config.usable = s.config.usable ∧
    u.config.signature = s.config.signature ∧ u.config.persistent = s.config.persistent ∧
    u.tracker = s.tracker ∧ u.seq = s.seq ∧ u.steam = s.steam ∧ u.closing = s.closing ∧
    u.verdicts = s.verdicts ∧ u.link = s.link ∧ u.transit = s.transit ∧ u.reject = s.reject from h _ rfl
  intro u hu
  simp only [State.opClearCounts] at hu
  (repeat' split at hu) <;> subst hu <;> simp

@[simp] theorem State.opReleaseStop_frame (s : State) :
    (s.opReleaseStop).pending = s.pending ∧ (s.opReleaseStop).timeBase = s.timeBase ∧
    (s.opReleaseStop).pins = s.pins ∧ (s.opReleaseStop).node = s.node ∧ (s.opReleaseStop).memory = s.memory ∧
    (s.opReleaseStop).config.header = s.config.header ∧ (s.opReleaseStop).config.banks = s.config.banks ∧
    (s.opReleaseStop).config.usable = s.config.usable ∧
    (s.opReleaseStop).config.signature = s.config.signature ∧
    (s.opReleaseStop).config.persistent = s.config.persistent ∧ (s.opReleaseStop).tracker = s.tracker ∧
    (s.opReleaseStop).seq = s.seq ∧ (s.opReleaseStop).steam = s.steam ∧
        (s.opReleaseStop).closing = s.closing ∧
    (s.opReleaseStop).verdicts = s.verdicts ∧ (s.opReleaseStop).transit = s.transit := by
  suffices h : ∀ u, s.opReleaseStop = u → u.pending = s.pending ∧ u.timeBase = s.timeBase ∧
      u.pins = s.pins ∧ u.node = s.node ∧ u.memory = s.memory ∧
    u.config.header = s.config.header ∧ u.config.banks = s.config.banks ∧ u.config.usable = s.config.usable ∧
    u.config.signature = s.config.signature ∧ u.config.persistent = s.config.persistent ∧
    u.tracker = s.tracker ∧ u.seq = s.seq ∧ u.steam = s.steam ∧ u.closing = s.closing ∧
    u.verdicts = s.verdicts ∧ u.transit = s.transit from h _ rfl
  intro u hu
  simp only [State.opReleaseStop] at hu
  (repeat' split at hu) <;> subst hu <;> simp

@[simp] theorem State.offerPage_frame (s : State) (snap : List Count) (page : Nat) :
    (s.offerPage snap page).pending = s.pending ∧ (s.offerPage snap page).timeBase = s.timeBase ∧
    (s.offerPage snap page).pins = s.pins ∧ (s.offerPage snap page).node = s.node ∧
    (s.offerPage snap page).memory = s.memory ∧ (s.offerPage snap page).config.header = s.config.header ∧
    (s.offerPage snap page).config.banks = s.config.banks ∧
    (s.offerPage snap page).config.usable = s.config.usable ∧
    (s.offerPage snap page).config.signature = s.config.signature ∧
    (s.offerPage snap page).config.persistent = s.config.persistent ∧
    (s.offerPage snap page).tracker = s.tracker ∧ (s.offerPage snap page).seq = s.seq ∧
    (s.offerPage snap page).steam = s.steam ∧ (s.offerPage snap page).closing = s.closing ∧
    (s.offerPage snap page).verdicts = s.verdicts ∧ (s.offerPage snap page).transit = s.transit ∧
    (s.offerPage snap page).reject = s.reject := by
  suffices h : ∀ u, s.offerPage snap page = u → u.pending = s.pending ∧ u.timeBase = s.timeBase ∧
      u.pins = s.pins ∧ u.node = s.node ∧ u.memory = s.memory ∧
    u.config.header = s.config.header ∧ u.config.banks = s.config.banks ∧ u.config.usable = s.config.usable ∧
    u.config.signature = s.config.signature ∧ u.config.persistent = s.config.persistent ∧
    u.tracker = s.tracker ∧ u.seq = s.seq ∧ u.steam = s.steam ∧ u.closing = s.closing ∧
    u.verdicts = s.verdicts ∧ u.transit = s.transit ∧ u.reject = s.reject from h _ rfl
  intro u hu
  simp only [State.offerPage] at hu
  (repeat' split at hu) <;> subst hu <;> simp

@[simp] theorem State.beginReport_frame (s : State) (arg : Byte) :
    (s.beginReport arg).pending = s.pending ∧ (s.beginReport arg).timeBase = s.timeBase ∧
    (s.beginReport arg).pins = s.pins ∧ (s.beginReport arg).node = s.node ∧
    (s.beginReport arg).memory = s.memory ∧ (s.beginReport arg).config.header = s.config.header ∧
    (s.beginReport arg).config.banks = s.config.banks ∧ (s.beginReport arg).config.usable = s.config.usable ∧
    (s.beginReport arg).config.signature = s.config.signature ∧
    (s.beginReport arg).config.persistent = s.config.persistent ∧ (s.beginReport arg).counters = s.counters ∧
    (s.beginReport arg).tracker = s.tracker ∧ (s.beginReport arg).seq = s.seq ∧
    (s.beginReport arg).steam = s.steam ∧ (s.beginReport arg).closing = s.closing ∧
    (s.beginReport arg).verdicts = s.verdicts ∧ (s.beginReport arg).link = s.link ∧
    (s.beginReport arg).transit = s.transit ∧ (s.beginReport arg).reject = s.reject := by
  simp [State.beginReport]

@[simp] theorem State.offerPages_frame (s : State) (snap : List Count) (pages : List Nat) :
    (s.offerPages snap pages).pending = s.pending ∧ (s.offerPages snap pages).timeBase = s.timeBase ∧
    (s.offerPages snap pages).pins = s.pins ∧ (s.offerPages snap pages).node = s.node ∧
    (s.offerPages snap pages).memory = s.memory ∧ (s.offerPages snap pages).config.header = s.config.header ∧
    (s.offerPages snap pages).config.banks = s.config.banks ∧
    (s.offerPages snap pages).config.usable = s.config.usable ∧
    (s.offerPages snap pages).config.signature = s.config.signature ∧
    (s.offerPages snap pages).config.persistent = s.config.persistent ∧
    (s.offerPages snap pages).tracker = s.tracker ∧ (s.offerPages snap pages).seq = s.seq ∧
    (s.offerPages snap pages).steam = s.steam ∧ (s.offerPages snap pages).closing = s.closing ∧
    (s.offerPages snap pages).verdicts = s.verdicts ∧ (s.offerPages snap pages).transit = s.transit ∧
    (s.offerPages snap pages).reject = s.reject := by
  have h : ∀ (q : List Nat) (s : State),
      (q.foldl (fun s p => s.offerPage snap p) s).pending = s.pending ∧
      (q.foldl (fun s p => s.offerPage snap p) s).timeBase = s.timeBase ∧
      (q.foldl (fun s p => s.offerPage snap p) s).pins = s.pins ∧
      (q.foldl (fun s p => s.offerPage snap p) s).node = s.node ∧
      (q.foldl (fun s p => s.offerPage snap p) s).memory = s.memory ∧
      (q.foldl (fun s p => s.offerPage snap p) s).config.header = s.config.header ∧
      (q.foldl (fun s p => s.offerPage snap p) s).config.banks = s.config.banks ∧
      (q.foldl (fun s p => s.offerPage snap p) s).config.usable = s.config.usable ∧
      (q.foldl (fun s p => s.offerPage snap p) s).config.signature = s.config.signature ∧
      (q.foldl (fun s p => s.offerPage snap p) s).config.persistent = s.config.persistent ∧
      (q.foldl (fun s p => s.offerPage snap p) s).tracker = s.tracker ∧
      (q.foldl (fun s p => s.offerPage snap p) s).seq = s.seq ∧
      (q.foldl (fun s p => s.offerPage snap p) s).steam = s.steam ∧
      (q.foldl (fun s p => s.offerPage snap p) s).closing = s.closing ∧
      (q.foldl (fun s p => s.offerPage snap p) s).verdicts = s.verdicts ∧
      (q.foldl (fun s p => s.offerPage snap p) s).transit = s.transit ∧
      (q.foldl (fun s p => s.offerPage snap p) s).reject = s.reject := by
    intro q
    induction q with
    | nil => intro s; simp
    | cons x q ih =>
      intro s
      simp only [List.foldl_cons, ih]
      simp
  simp [State.offerPages, h]

@[simp] theorem State.endEmptyReport_frame (s : State) :
    (s.endEmptyReport).pending = s.pending ∧ (s.endEmptyReport).timeBase = s.timeBase ∧
    (s.endEmptyReport).pins = s.pins ∧ (s.endEmptyReport).node = s.node ∧
    (s.endEmptyReport).memory = s.memory ∧ (s.endEmptyReport).config.header = s.config.header ∧
    (s.endEmptyReport).config.banks = s.config.banks ∧ (s.endEmptyReport).config.usable = s.config.usable ∧
    (s.endEmptyReport).config.signature = s.config.signature ∧
    (s.endEmptyReport).config.persistent = s.config.persistent ∧ (s.endEmptyReport).counters = s.counters ∧
    (s.endEmptyReport).tracker = s.tracker ∧ (s.endEmptyReport).seq = s.seq ∧
    (s.endEmptyReport).steam = s.steam ∧ (s.endEmptyReport).closing = s.closing ∧
    (s.endEmptyReport).verdicts = s.verdicts ∧ (s.endEmptyReport).link = s.link ∧
    (s.endEmptyReport).transit = s.transit ∧ (s.endEmptyReport).reject = s.reject := by
  suffices h : ∀ u, s.endEmptyReport = u → u.pending = s.pending ∧ u.timeBase = s.timeBase ∧
      u.pins = s.pins ∧ u.node = s.node ∧ u.memory = s.memory ∧
    u.config.header = s.config.header ∧ u.config.banks = s.config.banks ∧ u.config.usable = s.config.usable ∧
    u.config.signature = s.config.signature ∧ u.config.persistent = s.config.persistent ∧
    u.counters = s.counters ∧ u.tracker = s.tracker ∧ u.seq = s.seq ∧ u.steam = s.steam ∧
    u.closing = s.closing ∧ u.verdicts = s.verdicts ∧ u.link = s.link ∧ u.transit = s.transit ∧
    u.reject = s.reject from h _ rfl
  intro u hu
  simp only [State.endEmptyReport] at hu
  (repeat' split at hu) <;> subst hu <;> simp

@[simp] theorem State.opReport_frame (s : State) (arg : Byte) :
    (s.opReport arg).pending = s.pending ∧ (s.opReport arg).timeBase = s.timeBase ∧
    (s.opReport arg).pins = s.pins ∧ (s.opReport arg).node = s.node ∧ (s.opReport arg).memory = s.memory ∧
    (s.opReport arg).config.header = s.config.header ∧ (s.opReport arg).config.banks = s.config.banks ∧
    (s.opReport arg).config.usable = s.config.usable ∧
        (s.opReport arg).config.signature = s.config.signature ∧
    (s.opReport arg).config.persistent = s.config.persistent ∧ (s.opReport arg).tracker = s.tracker ∧
    (s.opReport arg).seq = s.seq ∧ (s.opReport arg).steam = s.steam ∧ (s.opReport arg).closing = s.closing ∧
    (s.opReport arg).verdicts = s.verdicts ∧ (s.opReport arg).transit = s.transit ∧
    (s.opReport arg).reject = s.reject := by
  suffices h : ∀ u, s.opReport arg = u → u.pending = s.pending ∧ u.timeBase = s.timeBase ∧ u.pins = s.pins ∧
      u.node = s.node ∧ u.memory = s.memory ∧
    u.config.header = s.config.header ∧ u.config.banks = s.config.banks ∧ u.config.usable = s.config.usable ∧
    u.config.signature = s.config.signature ∧ u.config.persistent = s.config.persistent ∧
    u.tracker = s.tracker ∧ u.seq = s.seq ∧ u.steam = s.steam ∧ u.closing = s.closing ∧
    u.verdicts = s.verdicts ∧ u.transit = s.transit ∧ u.reject = s.reject from h _ rfl
  intro u hu
  simp only [State.opReport] at hu
  (repeat' split at hu) <;> subst hu <;> simp

@[simp] theorem State.carryOut_frame (s : State) (op arg : Byte) :
    (s.carryOut op arg).pending = s.pending ∧ (s.carryOut op arg).timeBase = s.timeBase ∧
    (s.carryOut op arg).pins = s.pins ∧ (s.carryOut op arg).node = s.node ∧
    (s.carryOut op arg).memory = s.memory ∧ (s.carryOut op arg).config.header = s.config.header ∧
    (s.carryOut op arg).config.banks = s.config.banks ∧ (s.carryOut op arg).config.usable = s.config.usable ∧
    (s.carryOut op arg).config.signature = s.config.signature ∧
    (s.carryOut op arg).config.persistent = s.config.persistent ∧ (s.carryOut op arg).tracker = s.tracker ∧
    (s.carryOut op arg).steam = s.steam ∧ (s.carryOut op arg).closing = s.closing ∧
    (s.carryOut op arg).transit = s.transit := by
  suffices h : ∀ u, s.carryOut op arg = u → u.pending = s.pending ∧ u.timeBase = s.timeBase ∧
      u.pins = s.pins ∧ u.node = s.node ∧ u.memory = s.memory ∧
    u.config.header = s.config.header ∧ u.config.banks = s.config.banks ∧ u.config.usable = s.config.usable ∧
    u.config.signature = s.config.signature ∧ u.config.persistent = s.config.persistent ∧
    u.tracker = s.tracker ∧ u.steam = s.steam ∧ u.closing = s.closing ∧ u.transit = s.transit from h _ rfl
  intro u hu
  simp only [State.carryOut] at hu
  (repeat' split at hu) <;> subst hu <;> simp

@[simp] theorem State.testOp_frame (s : State) (op arg : Byte) :
    (s.testOp op arg).pending = s.pending ∧ (s.testOp op arg).timeBase = s.timeBase ∧
    (s.testOp op arg).pins = s.pins ∧ (s.testOp op arg).node = s.node ∧ (s.testOp op arg).memory = s.memory ∧
    (s.testOp op arg).config.header = s.config.header ∧ (s.testOp op arg).config.banks = s.config.banks ∧
    (s.testOp op arg).config.usable = s.config.usable ∧
    (s.testOp op arg).config.signature = s.config.signature ∧
    (s.testOp op arg).config.persistent = s.config.persistent ∧ (s.testOp op arg).tracker = s.tracker ∧
    (s.testOp op arg).steam = s.steam ∧ (s.testOp op arg).closing = s.closing ∧
    (s.testOp op arg).transit = s.transit := by
  suffices h : ∀ u, s.testOp op arg = u → u.pending = s.pending ∧ u.timeBase = s.timeBase ∧
      u.pins = s.pins ∧ u.node = s.node ∧ u.memory = s.memory ∧
    u.config.header = s.config.header ∧ u.config.banks = s.config.banks ∧ u.config.usable = s.config.usable ∧
    u.config.signature = s.config.signature ∧ u.config.persistent = s.config.persistent ∧
    u.tracker = s.tracker ∧ u.steam = s.steam ∧ u.closing = s.closing ∧ u.transit = s.transit from h _ rfl
  intro u hu
  simp only [State.testOp] at hu
  (repeat' split at hu) <;> subst hu <;> simp

@[simp] theorem State.testCommand_frame (s : State) (sender : Address) (mask : BitVec 32) (op arg : Byte) :
    (s.testCommand sender mask op arg).pending = s.pending ∧
    (s.testCommand sender mask op arg).timeBase = s.timeBase ∧
    (s.testCommand sender mask op arg).pins = s.pins ∧ (s.testCommand sender mask op arg).node = s.node ∧
    (s.testCommand sender mask op arg).memory = s.memory ∧
    (s.testCommand sender mask op arg).config.header = s.config.header ∧
    (s.testCommand sender mask op arg).config.banks = s.config.banks ∧
    (s.testCommand sender mask op arg).config.usable = s.config.usable ∧
    (s.testCommand sender mask op arg).config.signature = s.config.signature ∧
    (s.testCommand sender mask op arg).config.persistent = s.config.persistent ∧
    (s.testCommand sender mask op arg).tracker = s.tracker ∧
    (s.testCommand sender mask op arg).steam = s.steam ∧
    (s.testCommand sender mask op arg).closing = s.closing ∧
    (s.testCommand sender mask op arg).transit = s.transit := by
  suffices h : ∀ u, s.testCommand sender mask op arg = u → u.pending = s.pending ∧ u.timeBase = s.timeBase ∧
      u.pins = s.pins ∧ u.node = s.node ∧ u.memory = s.memory ∧
    u.config.header = s.config.header ∧ u.config.banks = s.config.banks ∧ u.config.usable = s.config.usable ∧
    u.config.signature = s.config.signature ∧ u.config.persistent = s.config.persistent ∧
    u.tracker = s.tracker ∧ u.steam = s.steam ∧ u.closing = s.closing ∧ u.transit = s.transit from h _ rfl
  intro u hu
  simp only [State.testCommand] at hu
  (repeat' split at hu) <;> subst hu <;> simp

@[simp] theorem State.takeCommand_frame (s : State) (sender : Address) (mask : BitVec 32) (op arg : Byte) :
    (s.takeCommand sender mask op arg).pending = s.pending ∧
    (s.takeCommand sender mask op arg).timeBase = s.timeBase ∧
    (s.takeCommand sender mask op arg).pins = s.pins ∧ (s.takeCommand sender mask op arg).node = s.node ∧
    (s.takeCommand sender mask op arg).memory = s.memory ∧
    (s.takeCommand sender mask op arg).config.header = s.config.header ∧
    (s.takeCommand sender mask op arg).config.banks = s.config.banks ∧
    (s.takeCommand sender mask op arg).config.usable = s.config.usable ∧
    (s.takeCommand sender mask op arg).config.signature = s.config.signature ∧
    (s.takeCommand sender mask op arg).config.persistent = s.config.persistent ∧
    (s.takeCommand sender mask op arg).tracker = s.tracker ∧
    (s.takeCommand sender mask op arg).steam = s.steam ∧
    (s.takeCommand sender mask op arg).closing = s.closing ∧
    (s.takeCommand sender mask op arg).transit = s.transit := by
  suffices h : ∀ u, s.takeCommand sender mask op arg = u → u.pending = s.pending ∧ u.timeBase = s.timeBase ∧
      u.pins = s.pins ∧ u.node = s.node ∧ u.memory = s.memory ∧
    u.config.header = s.config.header ∧ u.config.banks = s.config.banks ∧ u.config.usable = s.config.usable ∧
    u.config.signature = s.config.signature ∧ u.config.persistent = s.config.persistent ∧
    u.tracker = s.tracker ∧ u.steam = s.steam ∧ u.closing = s.closing ∧ u.transit = s.transit from h _ rfl
  intro u hu
  simp only [State.receive, State.takeCommand] at hu
  (repeat' split at hu) <;> subst hu <;> simp

@[simp] theorem State.startFrame_frame (s : State) :
    (s.startFrame).pending = s.pending ∧ (s.startFrame).timeBase = s.timeBase ∧ (s.startFrame).pins = s.pins ∧
    (s.startFrame).node = s.node ∧ (s.startFrame).memory = s.memory ∧ (s.startFrame).config = s.config ∧
    (s.startFrame).counters = s.counters ∧ (s.startFrame).tracker = s.tracker ∧ (s.startFrame).seq = s.seq ∧
    (s.startFrame).steam = s.steam ∧ (s.startFrame).closing = s.closing ∧
    (s.startFrame).verdicts = s.verdicts ∧ (s.startFrame).transit = s.transit ∧
    (s.startFrame).reject = s.reject := by
  suffices h : ∀ u, s.startFrame = u → u.pending = s.pending ∧ u.timeBase = s.timeBase ∧ u.pins = s.pins ∧
      u.node = s.node ∧ u.memory = s.memory ∧
    u.config = s.config ∧ u.counters = s.counters ∧ u.tracker = s.tracker ∧ u.seq = s.seq ∧
        u.steam = s.steam ∧
    u.closing = s.closing ∧ u.verdicts = s.verdicts ∧ u.transit = s.transit ∧ u.reject = s.reject from h _ rfl
  intro u hu
  simp only [State.startFrame] at hu
  (repeat' split at hu) <;> subst hu <;> simp

@[simp] theorem State.failFrame_frame (s : State) (lineBusy : Bool) :
    (s.failFrame lineBusy).pending = s.pending ∧ (s.failFrame lineBusy).timeBase = s.timeBase ∧
    (s.failFrame lineBusy).pins = s.pins ∧ (s.failFrame lineBusy).node = s.node ∧
    (s.failFrame lineBusy).memory = s.memory ∧ (s.failFrame lineBusy).config.header = s.config.header ∧
    (s.failFrame lineBusy).config.banks = s.config.banks ∧
    (s.failFrame lineBusy).config.usable = s.config.usable ∧
    (s.failFrame lineBusy).config.signature = s.config.signature ∧
    (s.failFrame lineBusy).config.persistent = s.config.persistent ∧
    (s.failFrame lineBusy).tracker = s.tracker ∧ (s.failFrame lineBusy).seq = s.seq ∧
    (s.failFrame lineBusy).steam = s.steam ∧ (s.failFrame lineBusy).closing = s.closing ∧
    (s.failFrame lineBusy).verdicts = s.verdicts ∧ (s.failFrame lineBusy).transit = s.transit ∧
    (s.failFrame lineBusy).reject = s.reject := by
  suffices h : ∀ u, s.failFrame lineBusy = u → u.pending = s.pending ∧ u.timeBase = s.timeBase ∧
      u.pins = s.pins ∧ u.node = s.node ∧ u.memory = s.memory ∧
    u.config.header = s.config.header ∧ u.config.banks = s.config.banks ∧ u.config.usable = s.config.usable ∧
    u.config.signature = s.config.signature ∧ u.config.persistent = s.config.persistent ∧
    u.tracker = s.tracker ∧ u.seq = s.seq ∧ u.steam = s.steam ∧ u.closing = s.closing ∧
    u.verdicts = s.verdicts ∧ u.transit = s.transit ∧ u.reject = s.reject from h _ rfl
  intro u hu
  simp only [State.failFrame] at hu
  (repeat' split at hu) <;> subst hu <;> simp

@[simp] theorem State.finishFrame_frame (s : State) :
    (s.finishFrame).pending = s.pending ∧ (s.finishFrame).timeBase = s.timeBase ∧
    (s.finishFrame).pins = s.pins ∧ (s.finishFrame).node = s.node ∧ (s.finishFrame).memory = s.memory ∧
    (s.finishFrame).config.header = s.config.header ∧ (s.finishFrame).config.banks = s.config.banks ∧
    (s.finishFrame).config.usable = s.config.usable ∧ (s.finishFrame).config.signature = s.config.signature ∧
    (s.finishFrame).config.persistent = s.config.persistent ∧ (s.finishFrame).tracker = s.tracker ∧
    (s.finishFrame).seq = s.seq ∧ (s.finishFrame).steam = s.steam ∧ (s.finishFrame).closing = s.closing ∧
    (s.finishFrame).verdicts = s.verdicts ∧ (s.finishFrame).transit = s.transit ∧
    (s.finishFrame).reject = s.reject := by
  suffices h : ∀ u, s.finishFrame = u → u.pending = s.pending ∧ u.timeBase = s.timeBase ∧ u.pins = s.pins ∧
      u.node = s.node ∧ u.memory = s.memory ∧
    u.config.header = s.config.header ∧ u.config.banks = s.config.banks ∧ u.config.usable = s.config.usable ∧
    u.config.signature = s.config.signature ∧ u.config.persistent = s.config.persistent ∧
    u.tracker = s.tracker ∧ u.seq = s.seq ∧ u.steam = s.steam ∧ u.closing = s.closing ∧
    u.verdicts = s.verdicts ∧ u.transit = s.transit ∧ u.reject = s.reject from h _ rfl
  intro u hu
  simp only [State.finishFrame] at hu
  (repeat' split at hu) <;> subst hu <;> simp

@[simp] theorem State.hearPeer_frame (s : State) (sender : Address) (st : RosterState) :
    (s.hearPeer sender st).pending = s.pending ∧ (s.hearPeer sender st).timeBase = s.timeBase ∧
    (s.hearPeer sender st).pins = s.pins ∧ (s.hearPeer sender st).node = s.node ∧
    (s.hearPeer sender st).memory = s.memory ∧ (s.hearPeer sender st).config = s.config ∧
    (s.hearPeer sender st).counters = s.counters ∧ (s.hearPeer sender st).tracker = s.tracker ∧
    (s.hearPeer sender st).seq = s.seq ∧ (s.hearPeer sender st).closing = s.closing ∧
    (s.hearPeer sender st).verdicts = s.verdicts ∧ (s.hearPeer sender st).link = s.link ∧
    (s.hearPeer sender st).transit = s.transit ∧ (s.hearPeer sender st).reject = s.reject := by
  suffices h : ∀ u, s.hearPeer sender st = u → u.pending = s.pending ∧ u.timeBase = s.timeBase ∧
      u.pins = s.pins ∧ u.node = s.node ∧ u.memory = s.memory ∧
    u.config = s.config ∧ u.counters = s.counters ∧ u.tracker = s.tracker ∧ u.seq = s.seq ∧
    u.closing = s.closing ∧ u.verdicts = s.verdicts ∧ u.link = s.link ∧ u.transit = s.transit ∧
    u.reject = s.reject from h _ rfl
  intro u hu
  simp only [State.hearPeer] at hu
  (repeat' split at hu) <;> subst hu <;> simp

@[simp] theorem State.hearJoin_frame (s : State) (sender : Address) :
    (s.hearJoin sender).pending = s.pending ∧ (s.hearJoin sender).timeBase = s.timeBase ∧
    (s.hearJoin sender).pins = s.pins ∧ (s.hearJoin sender).node = s.node ∧
    (s.hearJoin sender).memory = s.memory ∧ (s.hearJoin sender).config = s.config ∧
    (s.hearJoin sender).tracker = s.tracker ∧ (s.hearJoin sender).seq = s.seq ∧
    (s.hearJoin sender).closing = s.closing ∧ (s.hearJoin sender).link = s.link ∧
    (s.hearJoin sender).reject = s.reject := by
  suffices h : ∀ u, s.hearJoin sender = u → u.pending = s.pending ∧ u.timeBase = s.timeBase ∧
      u.pins = s.pins ∧ u.node = s.node ∧ u.memory = s.memory ∧
    u.config = s.config ∧ u.tracker = s.tracker ∧ u.seq = s.seq ∧ u.closing = s.closing ∧ u.link = s.link ∧
    u.reject = s.reject from h _ rfl
  intro u hu
  simp only [State.hearJoin] at hu
  (repeat' split at hu) <;> subst hu <;> simp

@[simp] theorem State.takePulse_frame (s : State) (t : Time) (jar cap : Bool) :
    (s.takePulse t jar cap).pending = s.pending ∧ (s.takePulse t jar cap).timeBase = s.timeBase ∧
    (s.takePulse t jar cap).node = s.node ∧ (s.takePulse t jar cap).memory = s.memory ∧
    (s.takePulse t jar cap).config.header = s.config.header ∧
    (s.takePulse t jar cap).config.banks = s.config.banks ∧
    (s.takePulse t jar cap).config.usable = s.config.usable ∧
    (s.takePulse t jar cap).config.signature = s.config.signature ∧
    (s.takePulse t jar cap).config.persistent = s.config.persistent ∧
    (s.takePulse t jar cap).transit = s.transit ∧ (s.takePulse t jar cap).reject = s.reject := by
  suffices h : ∀ u, s.takePulse t jar cap = u →
      u.pending = s.pending ∧ u.timeBase = s.timeBase ∧ u.node = s.node ∧ u.memory = s.memory ∧
      u.config.header = s.config.header ∧ u.config.banks = s.config.banks ∧ u.config.usable = s.config.usable ∧
      u.config.signature = s.config.signature ∧ u.config.persistent = s.config.persistent ∧
      u.transit = s.transit ∧ u.reject = s.reject from h _ rfl
  intro u hu
  simp only [State.takePulse] at hu
  (repeat' split at hu) <;> subst hu <;> simp

@[simp] theorem State.takeLossDeadline_frame (s : State) :
    (s.takeLossDeadline).pending = s.pending ∧ (s.takeLossDeadline).timeBase = s.timeBase ∧
    (s.takeLossDeadline).pins = s.pins ∧ (s.takeLossDeadline).node = s.node ∧
    (s.takeLossDeadline).memory = s.memory ∧ (s.takeLossDeadline).config.header = s.config.header ∧
    (s.takeLossDeadline).config.banks = s.config.banks ∧ (s.takeLossDeadline).config.usable = s.config.usable ∧
    (s.takeLossDeadline).config.signature = s.config.signature ∧
    (s.takeLossDeadline).config.persistent = s.config.persistent ∧ (s.takeLossDeadline).transit = s.transit ∧
    (s.takeLossDeadline).reject = s.reject := by
  suffices h : ∀ u, s.takeLossDeadline = u →
      u.pending = s.pending ∧ u.timeBase = s.timeBase ∧ u.pins = s.pins ∧ u.node = s.node ∧
      u.memory = s.memory ∧ u.config.header = s.config.header ∧ u.config.banks = s.config.banks ∧
      u.config.usable = s.config.usable ∧ u.config.signature = s.config.signature ∧
      u.config.persistent = s.config.persistent ∧ u.transit = s.transit ∧ u.reject = s.reject from h _ rfl
  intro u hu
  simp only [State.takeLossDeadline] at hu
  (repeat' split at hu) <;> subst hu <;> simp

@[simp] theorem State.takePhase_frame (s : State) (cap : Bool) :
    (s.takePhase cap).pending = s.pending ∧ (s.takePhase cap).timeBase = s.timeBase ∧
    (s.takePhase cap).node = s.node ∧ (s.takePhase cap).memory = s.memory ∧
    (s.takePhase cap).config.header = s.config.header ∧ (s.takePhase cap).config.banks = s.config.banks ∧
    (s.takePhase cap).config.usable = s.config.usable ∧
    (s.takePhase cap).config.signature = s.config.signature ∧
    (s.takePhase cap).config.persistent = s.config.persistent ∧ (s.takePhase cap).transit = s.transit ∧
    (s.takePhase cap).reject = s.reject := by
  suffices h : ∀ u, s.takePhase cap = u →
      u.pending = s.pending ∧ u.timeBase = s.timeBase ∧ u.node = s.node ∧ u.memory = s.memory ∧
      u.config.header = s.config.header ∧ u.config.banks = s.config.banks ∧ u.config.usable = s.config.usable ∧
      u.config.signature = s.config.signature ∧ u.config.persistent = s.config.persistent ∧
      u.transit = s.transit ∧ u.reject = s.reject from h _ rfl
  intro u hu
  simp only [State.takePhase] at hu
  (repeat' split at hu) <;> subst hu <;> simp

@[simp] theorem State.takeRunFall_frame (s : State) :
    (s.takeRunFall).pending = s.pending ∧ (s.takeRunFall).timeBase = s.timeBase ∧
    (s.takeRunFall).node = s.node ∧ (s.takeRunFall).memory = s.memory ∧
    (s.takeRunFall).config.header = s.config.header ∧ (s.takeRunFall).config.banks = s.config.banks ∧
    (s.takeRunFall).config.usable = s.config.usable ∧ (s.takeRunFall).config.signature = s.config.signature ∧
    (s.takeRunFall).config.persistent = s.config.persistent ∧ (s.takeRunFall).transit = s.transit ∧
    (s.takeRunFall).reject = s.reject := by
  suffices h : ∀ u, s.takeRunFall = u →
      u.pending = s.pending ∧ u.timeBase = s.timeBase ∧ u.node = s.node ∧ u.memory = s.memory ∧
      u.config.header = s.config.header ∧ u.config.banks = s.config.banks ∧ u.config.usable = s.config.usable ∧
      u.config.signature = s.config.signature ∧ u.config.persistent = s.config.persistent ∧
      u.transit = s.transit ∧ u.reject = s.reject from h _ rfl
  intro u hu
  simp only [State.takeRunFall] at hu
  (repeat' split at hu) <;> subst hu <;> simp

end Sys2Proof.Machine
end

