-- ==== Sys2Proof/Laws/Enter.lean ====
section
/-! SUPPORT. What taking a command at a moment changes, and that every command has a next state. -/

namespace Sys2Proof.Machine

/-- Taking a command moves the time base, empties the drive-line view and moves the phase; nothing else. -/
@[simp] theorem State.enter_frame (s : State) (t : Time) :
    (s.enter t).pending = s.pending ∧ (s.enter t).timeBase = t ∧ (s.enter t).pins = s.pins ∧
    (s.enter t).node = s.node ∧ (s.enter t).memory = s.memory ∧ (s.enter t).config = s.config ∧
    (s.enter t).counters = s.counters ∧ (s.enter t).seq = s.seq ∧ (s.enter t).steam = s.steam ∧
    (s.enter t).closing = { s.closing with sent := [] } ∧ (s.enter t).verdicts = s.verdicts ∧
    (s.enter t).link = s.link ∧ (s.enter t).transit = s.transit ∧ (s.enter t).reject = s.reject := by
  generalize hu : s.enter t = u
  simp only [State.enter] at hu
  split at hu <;> subst hu <;> simp

/-- The roles' blocks run exactly as before. -/
@[simp] theorem State.enter_runs (s : State) (t : Time) :
    (s.enter t).headRuns = s.headRuns ∧ (s.enter t).checkRuns = s.checkRuns := by
  simp [State.headRuns, State.checkRuns]

/-- Of the tracker, only the phase moves. -/
theorem State.enter_tracker (s : State) (t : Time) :
    (s.enter t).tracker =
      if s.headRuns then { s.tracker with phase := (s.heldPhase t) } else s.tracker := by
  simp only [State.enter]
  have h : ∀ (x : Closing), ({ s with timeBase := t, closing := x } : State).headRuns = s.headRuns :=
    fun _ => rfl
  simp only [h]
  split <;> rfl

/-- The pitch estimate and the other tracker fields stay. -/
@[simp] theorem State.enter_tracker_frame (s : State) (t : Time) :
    (s.enter t).tracker.pocket = s.tracker.pocket ∧ (s.enter t).tracker.revolution = s.tracker.revolution ∧
    (s.enter t).tracker.indexKnown = s.tracker.indexKnown ∧ (s.enter t).tracker.pitch = s.tracker.pitch ∧
    (s.enter t).tracker.tLast = s.tracker.tLast ∧ (s.enter t).tracker.lastPulse = s.tracker.lastPulse ∧
    (s.enter t).tracker.markTaken = s.tracker.markTaken ∧ (s.enter t).tracker.lock = s.tracker.lock ∧
    (s.enter t).tracker.inWindow = s.tracker.inWindow ∧ (s.enter t).tracker.miss = s.tracker.miss := by
  rw [State.enter_tracker]
  split <;> simp

end Sys2Proof.Machine
end

