-- ==== Sys2Proof/Laws/Offers.lean ====
section
/-! SUPPORT. What offering a notice leaves of the counters: a page that a notice displaces is lost, so no
report clears them (R117, R181). -/

namespace Sys2Proof.Machine

/-- A lost page clears no counter. -/
theorem State.pageLeft_lost_counters (s : State) : (s.pageLeft true).counters = s.counters := by
  simp only [State.pageLeft, State.endReport]
  (repeat' split) <;> simp_all

/-- Offering a notice changes of the counters only those of the link (R114, R117). -/
@[simp] theorem State.offer_counters (s : State) (n : Notice) :
    (s.offer n).counters.head = s.counters.head ∧ (s.offer n).counters.check = s.counters.check ∧
    (s.offer n).counters.refused = s.counters.refused ∧ (s.offer n).config.lifetime = s.config.lifetime := by
  have hj : ∀ (x : State) (n : Notice), (x.joinQueue n).counters.head = x.counters.head ∧
      (x.joinQueue n).counters.check = x.counters.check ∧
      (x.joinQueue n).counters.refused = x.counters.refused ∧
      (x.joinQueue n).config.lifetime = x.config.lifetime := by
    intro x n
    simp only [State.joinQueue]
    (repeat' split) <;> simp [State.pageLeft_lost_counters]
    simp only [State.pageLeft, State.endReport]
    (repeat' split) <;> simp
  simp only [State.offer]
  (repeat' split) <;> simp [hj]

/-- The link once a notice has joined its queue or met it full (R116, R117). -/
def Link.joined (l : Link) (n : Notice) : Link :=
  if l.queue.length < queueCapacity then l.withQueue (insertEntry ⟨n, false⟩ l.queue)
  else if n.kind < largestWaitingKind l.queue then
    l.withQueue (insertEntry ⟨n, false⟩ (removeYoungest (largestWaitingKind l.queue) l.queue))
  else l

/-- The link once a notice has been offered (R114 to R118): it depends on the link alone. -/
def Link.offered (l : Link) (n : Notice) : Link :=
  match l.state, n with
  | .active, .steamShut =>
    if l.queue.any fun e => e.notice == .steamOpen then
      l.withQueue (l.queue.filter fun e => e.notice != .steamOpen)
    else l.joined .steamShut
  | .active, .steamOpen => (l.overtake.withQueue (dropWaiting .steamShut l.queue)).joined .steamOpen
  | .active, n => l.joined n
  | _, _ => l

/-- A notice joins the queue of the link alone. -/
theorem State.joinQueue_link (s : State) (n : Notice) : (s.joinQueue n).link = s.link.joined n := by
  simp only [State.joinQueue, Link.joined]
  (repeat' split) <;> simp_all

/-- What offering a notice does to the link. -/
theorem State.offer_link (s : State) (n : Notice) : (s.offer n).link = s.link.offered n := by
  cases hl : s.link.state
  case active =>
    cases n <;> simp only [State.offer, Link.offered, hl] <;>
      first
      | exact State.joinQueue_link _ _
      | (split <;> simp [State.joinQueue_link])
  all_goals simp [State.offer, Link.offered, hl]

/-- Outside ACTIVE a notice is dropped and counted (R104, R114, R115). -/
theorem State.offer_silent {s : State} (h : s.link.state ≠ .active) (n : Notice) :
    s.offer n = s.countLink fun c => { c with linkDropped := c.linkDropped + 1 } := by
  cases hl : s.link.state <;> simp_all [State.offer]

end Sys2Proof.Machine
end

