-- ==== Sys2Proof/Laws/Answers.lean ====
section
/-! SUPPORT. What the verdict list does whole, and what keeps its law (Chapter 7). -/

namespace Sys2Proof.Machine

/-- A page that leaves the queue does not look at the verdict list (R181). -/
theorem State.pageLeft_verdicts_comm (s : State) (n : Bool) (v : VerdictList) :
    ({ s with verdicts := v } : State).pageLeft n = { s.pageLeft n with verdicts := v } := by
  unfold State.pageLeft State.endReport
  dsimp only [State.withConfig, State.withCounters]
  by_cases h1 : s.config.reportOutstanding = true
  · by_cases h2 : s.config.pagesInQueue ≤ 1
    · rw [if_pos h1, if_pos h1, if_pos h2, if_pos h2]
    · rw [if_pos h1, if_pos h1, if_neg h2, if_neg h2]
  · rw [if_neg h1, if_neg h1]

/-- Joining the queue does not look at the verdict list (R116, R117). -/
theorem State.joinQueue_verdicts_comm (s : State) (n : Notice) (v : VerdictList) :
    ({ s with verdicts := v } : State).joinQueue n = { s.joinQueue n with verdicts := v } := by
  unfold State.joinQueue
  dsimp only [State.withLink, State.countLink, State.withCounters]
  by_cases h1 : s.link.queue.length < queueCapacity
  · rw [if_pos h1, if_pos h1]
  · rw [if_neg h1, if_neg h1]
    by_cases h2 : n.kind < largestWaitingKind s.link.queue
    · rw [if_pos h2, if_pos h2]
      by_cases h3 : largestWaitingKind s.link.queue = 10
      · rw [if_pos h3, if_pos h3]; exact State.pageLeft_verdicts_comm ((s.countLink fun c => { c with
          txDropped := c.txDropped + 1 }).withLink (s.link.withQueue (insertEntry ⟨n, false⟩ (removeYoungest
          (largestWaitingKind s.link.queue) s.link.queue)))) true v
      · rw [if_neg h3, if_neg h3]
    · rw [if_neg h2, if_neg h2]

/-- Offering a notice does not look at the verdict list (R114 to R118). -/
theorem State.offer_verdicts_comm (s : State) (n : Notice) (v : VerdictList) :
    ({ s with verdicts := v } : State).offer n = { s.offer n with verdicts := v } := by
  unfold State.offer
  dsimp only
  split
  · split
    · by_cases h : (s.link.queue.any fun e => e.notice == .steamOpen) = true
      · rw [if_pos h, if_pos h]; rfl
      · rw [if_neg h, if_neg h]; exact State.joinQueue_verdicts_comm _ _ _
    · exact State.joinQueue_verdicts_comm (s.withLink (s.link.overtake.withQueue
        (dropWaiting .steamShut s.link.queue))) .steamOpen v
    · exact State.joinQueue_verdicts_comm _ _ _
  · rfl

/-- A frame that the link delivers reaches the blocks, and then it is over (R112). -/
theorem State.receive_delivers (s : State) (t : Time) (a : Address) (f : State → State)
    (hl : s.link.state = .active ∨ s.link.state = .mute)
    (ha : a ≠ s.node.address) : (s.enter t).receive a f = (f (s.enter t)).frameOver := by
  have h1 : (s.enter t).link.receives = true := by
    rcases hl with h | h <;> simp [Link.receives, h]
  have h2 : (a == (s.enter t).node.address) = false := by simpa using ha
  have h3 : s.link.receives = true := by simpa using h1
  simp [State.receive, h3, ha]

/-- With no MUTE due the end of a frame changes nothing (R109). -/
theorem State.frameOver_idle (s : State) (h : s.link.mutePending = false) : s.frameOver = s := by
  simp [State.frameOver, h]

/-- Offering a notice leaves a due MUTE due. -/
theorem State.offer_mutePending (s : State) (n : Notice) :
    (s.offer n).link.mutePending = s.link.mutePending := by
  rw [State.offer_link]
  unfold Link.offered Link.joined Link.withQueue
  split <;> (repeat' split) <;> rfl

/-- Offering notices leaves a due MUTE due. -/
theorem State.foldl_offer_mutePending (l : List Notice) (s : State) :
    (l.foldl State.offer s).link.mutePending = s.link.mutePending := by
  induction l generalizing s with
  | nil => rfl
  | cons a q ih =>
    rw [List.foldl_cons, ih, State.offer_link]
    unfold Link.offered Link.joined Link.withQueue
    split <;> (repeat' split) <;> rfl

/-- The link after several offers depends on the link alone. -/
theorem State.foldl_offer_link (l : List Notice) (s : State) :
    (l.foldl State.offer s).link = l.foldl Link.offered s.link := by
  induction l generalizing s with
  | nil => rfl
  | cons a q ih => rw [List.foldl_cons, ih, State.offer_link]; rfl

/-- The first entry of a revolution splits the list where it stands (R125). -/
theorem splitAtRevolution_some (r : Half) (older newer : List Summary) (x : Summary) (hx : x.revolution = r)
    (ho : r ∉ older.map (·.revolution)) :
    splitAtRevolution r (older ++ x :: newer) = some (older, x, newer) := by
  induction older with
  | nil => simp [splitAtRevolution, hx]
  | cons a q ih =>
    simp only [List.map_cons, List.mem_cons, not_or] at ho
    simp [splitAtRevolution, ih ho.2, Ne.symm ho.1]

/-- A revolution that no entry has splits nothing (R125). -/
theorem splitAtRevolution_none (r : Half) (q : List Summary) (ho : r ∉ q.map (·.revolution)) :
    splitAtRevolution r q = none := by
  induction q with
  | nil => rfl
  | cons a q ih =>
    simp only [List.map_cons, List.mem_cons, not_or] at ho
    simp [splitAtRevolution, ih ho.2, Ne.symm ho.1]

/-- What follows the answered entry is part of the list (R125). -/
theorem splitAtRevolution_sublist (r : Half) (q : List Summary) (a b : List Summary) (e : Summary)
    (h : splitAtRevolution r q = some (a, e, b)) :
    b.Sublist q := by
  induction q generalizing a with
  | nil => simp [splitAtRevolution] at h
  | cons x q ih =>
    simp only [splitAtRevolution] at h
    split at h
    · simp only [Option.some.injEq, Prod.mk.injEq] at h
      rw [← h.2.2]; exact List.sublist_cons_self _ _
    · cases hs : splitAtRevolution r q with
      | none => rw [hs] at h; simp at h
      | some y =>
        rw [hs] at h
        obtain ⟨a', e', b'⟩ := y
        simp only [Option.map_some, Option.some.injEq, Prod.mk.injEq] at h
        obtain ⟨-, h2, h3⟩ := h
        subst h2; subst h3
        exact (ih _ hs).trans (List.sublist_cons_self _ _)

/-- Reading a bank after a write of a bank. -/
theorem PerBank.get_set {α : Type} (t : PerBank α) (b c : BankId) (a : α) :
    (t.set b a).get c = if c = b then a else t.get c := by
  obtain ⟨⟨b, hb⟩⟩ := b
  obtain ⟨⟨c, hc⟩⟩ := c
  have h1 : b = 0 ∨ b = 1 ∨ b = 2 ∨ b = 3 := by omega
  have h2 : c = 0 ∨ c = 1 ∨ c = 2 ∨ c = 3 := by omega
  rcases h1 with rfl | rfl | rfl | rfl <;> rcases h2 with rfl | rfl | rfl | rfl <;> rfl

/-- Every bank of an all-zero table reads 0. -/
theorem PerBank.get_all_zero (b : BankId) : (PerBank.all 0 : PerBank Nat).get b = 0 := by
  unfold PerBank.all PerBank.get; split <;> rfl

/-- Entering the degraded condition (R130). -/
theorem State.setDegraded_clear {s : State} {b : BankId} (h : s.verdicts.degraded.get b = false) :
    s.setDegraded b = (s.withVerdicts
      { s.verdicts with degraded := s.verdicts.degraded.set b true }).offer (.state (.degraded b)) := by
  simp [State.setDegraded, h]

/-- Leaving the degraded condition (R131). -/
theorem State.recover_set {s : State} {b : BankId} (h : s.verdicts.degraded.get b = true) :
    s.recover b = (s.withVerdicts
      { s.verdicts with degraded := s.verdicts.degraded.set b false }).offer (.state (.recovered b)) := by
  simp [State.recover, h]

/-- Offering a notice passes a replaced verdict list. -/
theorem State.withVerdicts_offer (s : State) (v : VerdictList) (n : Notice) :
    (s.withVerdicts v).offer n = (s.offer n).withVerdicts v :=
  State.offer_verdicts_comm s n v

/-- The last replacement stands. -/
theorem State.withVerdicts_twice (s : State) (v w : VerdictList) :
    (s.withVerdicts v).withVerdicts w = s.withVerdicts w := rfl

/-- The replaced list is read back. -/
theorem State.withVerdicts_read (s : State) (v : VerdictList) : (s.withVerdicts v).verdicts = v := rfl

/-- RECOVERED on a replaced verdict list (R131). -/
theorem State.recover_withVerdicts (s : State) (v : VerdictList) (b : BankId) : (s.withVerdicts v).recover b =
    if v.degraded.get b then
      (s.offer (.state (.recovered b))).withVerdicts { v with degraded := v.degraded.set b false }
    else s.withVerdicts v := by
  unfold State.recover
  simp only [State.withVerdicts_read, State.withVerdicts_offer, State.withVerdicts_twice]

/-- What TRIM-RESET does, whole (R132). -/
theorem State.resetTrims_eq (s : State) : s.resetTrims =
    ((([0#2, 1#2, 2#2, 3#2].filter fun b => s.verdicts.degraded.get b).map fun b =>
      Notice.state (.recovered b)).foldl State.offer (s.withVerdicts
           { s.verdicts with
            trims := ⟨0, 0, 0, 0⟩, goodRun := ⟨0, 0, 0, 0⟩
            degraded := ⟨false, false, false, false⟩ } )) := by
  unfold State.resetTrims
  obtain ⟨aw, tr, gr, ⟨d0, d1, d2, d3⟩⟩ := s.verdicts
  cases d0 <;> cases d1 <;> cases d2 <;> cases d3 <;>
    simp [PerBank.get, PerBank.set, PerBank.all, State.recover_withVerdicts, State.withVerdicts_offer]

/-- RECOVERED leaves the awaited seals, the trims and the counts. -/
theorem State.recover_keeps (s : State) (b : BankId) : (s.recover b).verdicts.awaited = s.verdicts.awaited ∧
    (s.recover b).verdicts.trims = s.verdicts.trims ∧ (s.recover b).verdicts.goodRun = s.verdicts.goodRun ∧
    (s.recover b).config.banks = s.config.banks := by
  unfold State.recover
  split <;> simp

/-- What replacing a trim changes (R131). -/
theorem State.setTrim_gives (s : State) (b : BankId) (x : Nat) :
    (s.setTrim b x).verdicts.awaited = s.verdicts.awaited ∧ (s.setTrim b x).verdicts.trims =
      s.verdicts.trims.set b x ∧ (s.setTrim b x).verdicts.goodRun = s.verdicts.goodRun ∧
          (s.setTrim b x).config.banks = s.config.banks := by
  unfold State.setTrim
  dsimp only
  split
  · have := State.recover_keeps (s.withVerdicts { s.verdicts with trims := s.verdicts.trims.set b x }) b
    simpa using this
  · simp

/-- An answer leaves the awaited seals and keeps trims and counts in their ranges (R127 to R129). -/
theorem State.takeAnswer_keeps (s : State) (e : Summary) (p : VerdictPayload) (h : (∀ b,
    s.verdicts.goodRun.get b < 8) ∧
  (∀ b, s.verdicts.trims.get b ≤ (s.bankOf b).trimMax)) :
  (s.takeAnswer e p).verdicts.awaited = s.verdicts.awaited ∧
      (s.takeAnswer e p).config.banks = s.config.banks ∧
   (∀ b, (s.takeAnswer e p).verdicts.goodRun.get b < 8) ∧
  (∀ b, (s.takeAnswer e p).verdicts.trims.get b ≤ ((s.takeAnswer e p).bankOf b).trimMax) := by
  unfold State.takeAnswer State.bankOf at *
  split
  · split
    · refine ⟨?_, ?_, ?_, ?_⟩
      · simp only [State.lowResult, State.setGoodRun, State.setDegraded]; (repeat' split) <;> simp
      · simp only [State.lowResult, State.setGoodRun, State.setDegraded]; (repeat' split) <;> simp
      · intro b
        simp only [State.lowResult, State.setGoodRun, State.setDegraded, State.withVerdicts_verdicts,
            PerBank.get_set]
        split
        · omega
        · have := h.1 b
          (repeat' split) <;> simpa using this
      · intro b
        have hb := h.2 b
        simp only [State.lowResult, State.setGoodRun, State.setDegraded, State.withVerdicts_verdicts,
            State.withVerdicts_config]
        (repeat' split) <;> simp
        · exact hb
        · exact hb
        · rw [PerBank.get_set]; split
          · rename_i hx; subst hx; simp only [State.bankOf]; omega
          · exact hb
    · unfold State.goodResult
      dsimp only
      split
      · have f := State.setTrim_gives (s.setGoodRun e.bank 0) e.bank (s.verdicts.trims.get e.bank -
          (s.bankOf e.bank).trimStep)
        refine ⟨?_, ?_, ?_, ?_⟩
        · rw [f.1]; rfl
        · rw [f.2.2.2]; rfl
        · intro b; rw [f.2.2.1]; simp only [State.setGoodRun, State.withVerdicts_verdicts,
            PerBank.get_set]; split
          · omega
          · exact h.1 b
        · intro b; rw [f.2.1, f.2.2.2, PerBank.get_set]; split
          · rename_i hx; subst hx; have := h.2 e.bank; simp only [State.setGoodRun,
              State.withVerdicts_config, State.bankOf] at *; omega
          · exact h.2 b
      · rename_i hr
        refine ⟨by simp [State.setGoodRun], by simp [State.setGoodRun], ?_, ?_⟩
        · intro b; simp only [State.setGoodRun, State.withVerdicts_verdicts, PerBank.get_set]; split
          · simp [goodRunLength] at hr; omega
          · exact h.1 b
        · intro b; simpa [State.setGoodRun] using h.2 b
  · exact ⟨rfl, rfl, h.1, h.2⟩

/-- TRIM-RESET leaves the awaited seals (R132). -/
theorem State.resetTrims_gives (s : State) : s.resetTrims.verdicts.awaited = s.verdicts.awaited ∧
    s.resetTrims.verdicts.trims = PerBank.all 0 ∧ s.resetTrims.verdicts.goodRun = PerBank.all 0 := by
  unfold State.resetTrims
  simp only [List.foldl]
  simp only [State.recover_keeps]
  exact ⟨rfl, rfl, rfl⟩

/-- Only the awaited seals matter to the law of R123. -/
theorem VerdictList.ok_of_awaited {v w : VerdictList} (h : v.ok) (e : w.awaited = v.awaited) : w.ok := by
  unfold VerdictList.ok; rw [e]; exact h

/-- Adding a summary keeps the law of R123, the trims and the good-run counts. -/
theorem State.addSummary_ok {s : State} (h : s.verdicts.ok) (e : Summary) : (s.addSummary e).verdicts.ok ∧
    (s.addSummary e).verdicts.trims = s.verdicts.trims ∧
        (s.addSummary e).verdicts.goodRun = s.verdicts.goodRun := by
  unfold State.addSummary
  dsimp only
  by_cases h1 : (s.verdicts.awaited.any fun x => x.revolution == e.revolution) = true
  · rw [if_pos h1]; simp [State.countUnanswered, h]
  · rw [if_neg h1]
    have hn : ∀ x ∈ s.verdicts.awaited, x.revolution ≠ e.revolution := by
      intro x hx he
      exact h1 (List.any_eq_true.2 ⟨x, hx, by simp [he]⟩)
    by_cases h2 : awaitedCapacity ≤ s.verdicts.awaited.length
    · rw [if_pos h2]
      refine ⟨?_, by simp [State.countUnanswered], by simp [State.countUnanswered]⟩
      simp only [State.countUnanswered, State.countHead_verdicts, State.withVerdicts_verdicts]
      refine ⟨?_, ?_⟩
      · have := h.1; simp [awaitedCapacity] at h2 ⊢; omega
      · dsimp only
        rw [List.map_append, List.nodup_append]
        refine ⟨(h.2.sublist ((List.tail_sublist _).map _)), by simp, ?_⟩
        intro a ha b hb
        simp only [List.map_cons, List.map_nil, List.mem_singleton] at hb
        obtain ⟨x, hx, rfl⟩ := List.mem_map.1 ha
        rw [hb]; exact hn x (List.mem_of_mem_tail hx)
    · rw [if_neg h2]
      refine ⟨?_, by simp, by simp⟩
      simp only [State.withVerdicts_verdicts]
      refine ⟨by simp [awaitedCapacity] at h2 ⊢; omega, ?_⟩
      dsimp only
      rw [List.map_append, List.nodup_append]
      refine ⟨h.2, by simp, ?_⟩
      intro a ha b hb
      simp only [List.map_cons, List.map_nil, List.mem_singleton] at hb
      obtain ⟨x, hx, rfl⟩ := List.mem_map.1 ha
      rw [hb]; exact hn x hx

/-- The law of the awaited seals is kept, and trims and good-run counts stay. -/
def State.keepsTrims (s u : State) : Prop := (s.verdicts.ok → u.verdicts.ok) ∧
    u.verdicts.trims = s.verdicts.trims ∧
  u.verdicts.goodRun = s.verdicts.goodRun

/-- A verdict list that stays keeps all of it. -/
theorem State.keepsTrims_of {s u : State} (h : u.verdicts = s.verdicts) :
    State.keepsTrims s u := ⟨by rw [h]; exact id, by rw [h], by rw [h]⟩

/-- The relation composes. -/
theorem State.keepsTrims_trans {s u w : State} (a : State.keepsTrims s u) (b : State.keepsTrims u w) :
    State.keepsTrims s w :=
  ⟨fun h => b.1 (a.1 h), b.2.1.trans a.2.1, b.2.2.trans a.2.2⟩

/-- It keeps the awaited seals lawful, and the trims and counts as they were. -/
theorem State.addSummary_trims (s : State) (e : Summary) : State.keepsTrims s (s.addSummary e) :=
  ⟨fun h => (State.addSummary_ok h e).1,
      by simp only [State.addSummary]; (repeat' split) <;> simp [State.countUnanswered],
      by simp only [State.addSummary]; (repeat' split) <;> simp [State.countUnanswered]⟩

/-- It keeps the awaited seals lawful, and the trims and counts as they were. -/
theorem State.postRecord_trims (s : State) : State.keepsTrims s s.postRecord := by
  unfold State.postRecord
  dsimp only
  split
  · exact State.keepsTrims_of (by simp)
  · rename_i r _
    cases r.jarPresent
    · exact State.keepsTrims_of (by simp)
    · refine State.keepsTrims_trans (State.keepsTrims_of (u := (s.shutRequest .abort).offer
        ((s.shutRequest .abort).noticeOf r)) (by simp)) (State.keepsTrims_trans (State.addSummary_trims _
        (summaryOf r)) (State.keepsTrims_of ?_))
      simp

/-- It keeps the awaited seals lawful, and the trims and counts as they were. -/
theorem State.releaseAndPost_trims (s : State) : State.keepsTrims s s.releaseAndPost := by
  unfold State.releaseAndPost
  split
  · exact State.keepsTrims_trans (State.keepsTrims_of (by simp)) (State.postRecord_trims _)
  · exact State.postRecord_trims _

/-- It keeps the awaited seals lawful, and the trims and counts as they were. -/
theorem State.postLeftOver_trims (s : State) : State.keepsTrims s s.postLeftOver := by
  unfold State.postLeftOver
  split
  · exact State.keepsTrims_of rfl
  · exact State.keepsTrims_trans (State.keepsTrims_of (by simp)) (State.releaseAndPost_trims _)

/-- It keeps the awaited seals lawful, and the trims and counts as they were. -/
theorem State.atInfeed_trims (s : State) : State.keepsTrims s s.atInfeed := by
  unfold State.atInfeed
  dsimp only
  refine State.keepsTrims_trans (State.postLeftOver_trims s) ?_
  split
  · exact State.keepsTrims_of (by simp)
  · exact State.keepsTrims_of rfl

/-- It keeps the awaited seals lawful, and the trims and counts as they were. -/
theorem State.atRelease_trims (s : State) : State.keepsTrims s s.atRelease := by
  unfold State.atRelease
  split
  · exact State.keepsTrims_trans (State.keepsTrims_of (by simp)) (State.releaseAndPost_trims _)
  · exact State.releaseAndPost_trims _
  · exact State.keepsTrims_of rfl

/-- It keeps the awaited seals lawful, and the trims and counts as they were. -/
theorem State.handBoundary_trims (s : State) (b : Boundary) : State.keepsTrims s (s.handBoundary b) := by
  cases b
  · exact State.atInfeed_trims s
  · exact State.keepsTrims_of (by simp [State.handBoundary])
  · exact State.keepsTrims_of (by simp [State.handBoundary])
  · exact State.keepsTrims_of (by simp [State.handBoundary])
  · exact State.keepsTrims_of (by simp [State.handBoundary])
  · exact State.keepsTrims_of (by simp [State.handBoundary])
  · exact State.atRelease_trims s

/-- It keeps the awaited seals lawful, and the trims and counts as they were. -/
theorem State.handBoundaries_trims (s : State) (bs : List Boundary) :
    State.keepsTrims s (s.handBoundaries bs) := by
  induction bs generalizing s with
  | nil => exact State.keepsTrims_of rfl
  | cons b q ih => exact State.keepsTrims_trans (State.handBoundary_trims s b) (ih _)

/-- It keeps the awaited seals lawful, and the trims and counts as they were. -/
theorem State.abortPower_trims (s : State) : State.keepsTrims s s.abortPower := by
  unfold State.abortPower
  (repeat' split) <;> first
      | exact State.keepsTrims_of rfl
      | exact State.releaseAndPost_trims _
      | exact State.keepsTrims_trans (State.keepsTrims_of (by simp)) (State.releaseAndPost_trims _)

/-- It keeps the awaited seals lawful, and the trims and counts as they were. -/
theorem State.countedPulse_trims (s : State) (t : Time) : State.keepsTrims s (s.countedPulse t) := by
  unfold State.countedPulse
  dsimp only
  refine State.keepsTrims_trans (State.keepsTrims_of ?_) (State.handBoundaries_trims _ _)
  simp

/-- It keeps the awaited seals lawful, and the trims and counts as they were. -/
theorem State.phaseMoves_trims (s : State) : State.keepsTrims s s.phaseMoves := by
  unfold State.phaseMoves
  dsimp only
  refine State.keepsTrims_trans (State.keepsTrims_of ?_) (State.handBoundaries_trims _ _)
  simp

end Sys2Proof.Machine
end

