-- ==== Sys2Proof/Laws/Memory.lean ====
section
/-! SUPPORT. The configuration memory: reading after writing, the canonical form, and slices. -/

namespace Sys2Proof.Machine

/-! ### Reading after writing -/

/-- A byte below every listed address reads as erased. -/
theorem Memory.read_below {m : Memory} {a : Nat} (h : ∀ c ∈ m,
    a < c.1) : Memory.read m a = Config.erasedByte := by
  induction m with
  | nil => rfl
  | cons c m ih =>
    have hc : a < c.1 := h c (by simp)
    simp only [Memory.read]
    rw [if_neg (by omega)]
    exact ih fun d hd => h d (by simp [hd])

/-- Addresses of a canonical memory rise strictly. -/
theorem Memory.wf.tail {c : Host.Cell} {m : Memory} (h : Memory.wf (c :: m)) : Memory.wf m :=
  ⟨(List.pairwise_cons.mp h.1).2, fun d hd => h.2 d (by simp [hd])⟩

/-- Every later address of a canonical memory is above the first. -/
theorem Memory.wf.head_lt {c : Host.Cell} {m : Memory} (h : Memory.wf (c :: m)) : ∀ d ∈ m, c.1 < d.1 :=
  (List.pairwise_cons.mp h.1).1

/-- A read after a write gives the byte written at its address and the old byte elsewhere. -/
theorem Memory.read_write {m : Memory} (h : Memory.wf m) (a : Nat) (v : Byte) (b : Nat) :
    Memory.read (Memory.write m a v) b = if b = a then v else Memory.read m b := by
  induction m with
  | nil => by_cases hv : v = Config.erasedByte <;> simp [Memory.write, Memory.read, hv]
  | cons c m ih =>
    have hlt := h.head_lt
    have hm : ∀ x, x ≤ c.1 → Memory.read m x = Config.erasedByte := fun x hx =>
      Memory.read_below fun d hd => by have := hlt d hd; omega
    rcases Nat.lt_trichotomy a c.1 with h1 | h1 | h1
    · have hb : b = a → b ≠ c.1 := by omega
      by_cases hv : v = Config.erasedByte <;> by_cases h3 : b = a <;>
        simp [Memory.write, Memory.read, h1, hv, h3]
      subst h3
      simp [hm b (by omega), hb rfl]
    · subst h1
      by_cases hv : v = Config.erasedByte <;> by_cases h3 : b = c.1 <;>
        simp [Memory.write, Memory.read, hv, h3, hm]
    · have h2 : ¬a < c.1 := by omega
      have h3 : a ≠ c.1 := by omega
      simp only [Memory.write, Memory.read, if_neg h2, if_neg h3, ih h.tail]
      by_cases h4 : b = c.1 <;> simp [h4]
      omega

/-! ### The canonical form -/

/-- Every address of a written memory is the one written or an old one. -/
theorem Memory.mem_write {m : Memory} {a : Nat} {v : Byte} {d : Host.Cell} (h : d ∈ Memory.write m a v) :
    d = (a, v) ∧ v ≠ Config.erasedByte ∨ d ∈ m := by
  induction m with
  | nil =>
    simp only [Memory.write] at h
    split_ifs at h with h1 <;> simp_all
  | cons c m ih =>
    simp only [Memory.write] at h
    split_ifs at h with h1 h2 h3 h4
    · exact .inr h
    · rcases List.mem_cons.mp h with h | h <;> simp_all
    · exact .inr (by simp [h])
    · rcases List.mem_cons.mp h with h | h <;> simp_all
    · rcases List.mem_cons.mp h with h | h
      · simp [h]
      · rcases ih h with h | h <;> simp_all

/-- A write keeps the canonical form. -/
theorem Memory.write_wf {m : Memory} (h : Memory.wf m) {a : Nat} (v : Byte) (ha : a < Config.memoryBytes) :
    Memory.wf (Memory.write m a v) := by
  constructor
  · induction m with
    | nil => simp only [Memory.write]; split_ifs <;> simp
    | cons c m ih =>
      have hlt := h.head_lt
      have hp := List.pairwise_cons.mp h.1
      simp only [Memory.write]
      split_ifs with h1 h2 h3 h4
      · exact h.1
      · refine List.pairwise_cons.mpr ⟨fun d hd => ?_, h.1⟩
        rcases List.mem_cons.mp hd with rfl | hd
        · exact h1
        · have := hlt d hd; simp only; omega
      · exact hp.2
      · refine List.pairwise_cons.mpr ⟨fun d hd => ?_, hp.2⟩
        have := hlt d hd; simp only; omega
      · refine List.pairwise_cons.mpr ⟨fun d hd => ?_, ih h.tail⟩
        rcases Memory.mem_write hd with ⟨rfl, -⟩ | hd
        · simp only; omega
        · exact hlt d hd
  · intro c hc
    rcases Memory.mem_write hc with ⟨rfl, hv⟩ | hc
    · exact ⟨hv, ha⟩
    · exact h.2 c hc

/-- Writing bytes one after another keeps the canonical form. -/
theorem Memory.writeAll_wf {m : Memory} (h : Memory.wf m) {ws : List (Nat × Byte)}
    (hw : ∀ w ∈ ws, w.1 < Config.memoryBytes) : Memory.wf (Memory.writeAll m ws) := by
  induction ws generalizing m with
  | nil => exact h
  | cons w ws ih =>
    exact ih (Memory.write_wf h w.2 (hw w (by simp))) fun x hx => hw x (by simp [hx])

/-- Bytes that none of the writes touches read as before. -/
theorem Memory.read_writeAll_other {m : Memory} {a : Nat} (h : Memory.wf m) {ws : List (Nat × Byte)}
    (hw : ∀ w ∈ ws, w.1 ≠ a ∧ w.1 < Config.memoryBytes) :
    Memory.read (Memory.writeAll m ws) a = Memory.read m a := by
  induction ws generalizing m with
  | nil => rfl
  | cons w ws ih =>
    have h0 := hw w (by simp)
    show Memory.read (Memory.writeAll (Memory.write m w.1 w.2) ws) a = _
    rw [ih (Memory.write_wf h _ h0.2) (fun x hx => hw x (by simp [hx])), Memory.read_write h]
    simp [Ne.symm h0.1]

/-- The empty memory is canonical. -/
theorem Memory.nil_wf : Memory.wf [] := by simp [Memory.wf]

/-! ### Slices -/

/-- Walking a list whose addresses are all at `a` or above reads the bytes from `a` on. -/
theorem Memory.walk_eq {n a : Nat} {m : Memory} (h : Memory.wf m) (ha : ∀ c ∈ m, a ≤ c.1) :
    Memory.walk n a m = (List.range n).map fun i => Memory.read m (a + i) := by
  induction n generalizing a m with
  | zero => cases m <;> rfl
  | succ n ih =>
    rw [List.range_succ_eq_map, List.map_cons, List.map_map]
    cases m with
    | nil =>
      rw [Memory.walk, ih h (by simp)]
      simp [Memory.read, Function.comp_def]
    | cons c m =>
      have hlt := h.head_lt
      have hc := ha c (by simp)
      simp only [Memory.walk]
      split_ifs with h1
      · subst h1
        rw [ih h.tail fun d hd => hlt d hd]
        simp only [Nat.add_zero, Memory.read, if_true, List.cons.injEq, true_and]
        refine List.map_congr_left fun i _ => ?_
        simp only [Function.comp, Nat.succ_eq_add_one]
        rw [if_neg (by omega)]
        congr 1; omega
      · rw [ih h fun d hd => by
          rcases List.mem_cons.mp hd with rfl | hd
          · omega
          · have := hlt d hd; omega]
        have hbelow : Memory.read (c :: m) a = Config.erasedByte := Memory.read_below fun d hd => by
          rcases List.mem_cons.mp hd with rfl | hd
          · omega
          · have := hlt d hd; omega
        refine List.cons_eq_cons.mpr ⟨hbelow.symm, ?_⟩
        refine List.map_congr_left fun i _ => ?_
        simp only [Function.comp, Nat.succ_eq_add_one]
        congr 1; omega

/-- Dropping the cells below an address leaves every byte from there on as it reads. -/
theorem Memory.read_drop {m : Memory} {a : Nat} (b : Nat) (hb : a ≤ b) :
    Memory.read (m.dropWhile fun c => c.1 < a) b = Memory.read m b := by
  induction m with
  | nil => rfl
  | cons c m ih =>
    by_cases h : c.1 < a
    · rw [List.dropWhile_cons_of_pos (by simpa using h), ih]
      simp only [Memory.read]
      rw [if_neg (by omega)]
    · rw [List.dropWhile_cons_of_neg (by simpa using h)]

/-- What is left after dropping the cells below an address is canonical and lies at it or above. -/
theorem Memory.drop_wf {m : Memory} (h : Memory.wf m) (a : Nat) :
    Memory.wf (m.dropWhile fun c => c.1 < a) ∧ ∀ c ∈ m.dropWhile (fun c => c.1 < a), a ≤ c.1 := by
  induction m with
  | nil => exact ⟨h, by simp⟩
  | cons c m ih =>
    by_cases hc : c.1 < a
    · rw [List.dropWhile_cons_of_pos (by simpa using hc)]; exact ih h.tail
    · rw [List.dropWhile_cons_of_neg (by simpa using hc)]
      refine ⟨h, fun d hd => ?_⟩
      rcases List.mem_cons.mp hd with rfl | hd
      · omega
      · have := h.head_lt d hd; omega

/-- A slice of a canonical memory is its bytes one after another. -/
theorem Memory.slice_eq {m : Memory} (h : Memory.wf m) (a n : Nat) :
    Memory.slice m a n = (List.range n).map fun i => Memory.read m (a + i) := by
  obtain ⟨h1, h2⟩ := Memory.drop_wf h a
  rw [Memory.slice, Memory.walk_eq h1 h2]
  exact List.map_congr_left fun i _ => Memory.read_drop _ (by omega)

end Sys2Proof.Machine
end

