-- ==== Sys2Proof/Laws/Steps.lean ====
section
/-! SUPPORT. What whole commands leave as it was. -/

namespace Sys2Proof.Machine

/-- A received frame changes nothing of the node, the memory or the configuration copies when its delivery
does not. -/
theorem State.receive_keeps (s : State) (a : Address) (f : State → State) (P : State → Prop)
    (hs : P s) (hf : ∀ s, P s → P (f s)) (hm : ∀ s, P s → P s.enterMute) : P (s.receive a f) := by
  simp only [State.receive, State.takeDuplicate, State.frameOver]
  (repeat' split) <;> first
      | exact hs
      | exact hm _ (hm _ hs)
      | exact hm _ hs
      | exact hf _ hs
      | exact hm _ (hf _ hs)

/-- The parts that only the start and power commands touch. -/
def State.sameNode (s u : State) : Prop :=
  u.pending = s.pending ∧ u.node = s.node ∧ u.memory = s.memory ∧ u.config.header = s.config.header ∧
  u.config.banks = s.config.banks ∧ u.config.usable = s.config.usable ∧
  u.config.signature = s.config.signature ∧ u.config.persistent = s.config.persistent

/-- Every other command leaves the queue, the node, the memory and the configuration copies. -/
theorem exec_sameNode {i : Instr} {s u : State} (hi : startsOrSaves i = false)
    (h : exec i s = .next u) : s.sameNode u := by
  unfold State.sameNode
  cases i <;> simp only [startsOrSaves, reduceCtorEq] at hi <;> simp only [exec] at h
  all_goals
    simp only [
      execTurretPulse, execPitchLossDeadline, execPhaseBoundary, execRunLineFall, execRunLineRise,
      execTemperatureReading, execValveFeedbackChange, execSettleTimerExpiry, execDoseTick,
      execRosterExpiry, execDriveSample, execSampleDeadline, execFrameStart, execContestLost,
      execTransmitError, execFrameSent, execRxFrameError, execDuplicateAddress,
      execSteamOpenReceived, execSteamShutReceived, execValveFaultReceived, execJoinReceived,
      execVerdictReceived, execSealReceived, execVoidReceived, execConveyorAdvance,
      execTransitWindowClose, execJarEdge, execPanelReading, execReadingWindowClose,
      execGatePositionReached, execRejectPulseEnd, execSelectBank, execLock, execRestore,
      execTrimReset, execClearCounts, execReport, execReleaseStop, execCommandOpUnknown,
      State.receive, State.afterSample,
      Host.Outcome.next.injEq] at h
    (repeat' split at h) <;> subst h <;> simp

end Sys2Proof.Machine
end

