-- ==== Sys2Proof/Laws/Start.lean ====
section
/-! SUPPORT. The start sequence, the save and the memory. -/

namespace Sys2Proof.Machine

/-! ### The bytes of a save -/

/-- Bytes from an address on lie at that address and the ones after it. -/
theorem writesFrom_mem {a : Nat} {bs : List Byte} {w : Nat × Byte} (h : w ∈ writesFrom a bs) :
    a ≤ w.1 ∧ w.1 < a + bs.length := by
  induction bs generalizing a with
  | nil => simp [writesFrom] at h
  | cons b bs ih =>
    simp only [writesFrom, List.mem_cons] at h
    rcases h with rfl | h
    · simp
    · have := ih h; simp only [List.length_cons]; omega

/-- Bytes stored from an address on read back in their order. -/
theorem read_writesFrom {m : Memory} (h : Memory.wf m) {bs : List Byte} {a : Nat} (i : Nat)
    (hi : i < bs.length) (ha : a + bs.length ≤ Config.memoryBytes) :
    Memory.read (Memory.writeAll m (writesFrom a bs)) (a + i) = bs.getD i 0 := by
  induction bs generalizing m a i with
  | nil => simp at hi
  | cons b bs ih =>
    simp only [List.length_cons] at hi ha
    have h1 : Memory.wf (Memory.write m a b) := Memory.write_wf h _ (by omega)
    show Memory.read (Memory.writeAll (Memory.write m a b) (writesFrom (a + 1) bs)) (a + i) = _
    cases i with
    | zero =>
      rw [Memory.read_writeAll_other h1 (fun w hw => by
        have := writesFrom_mem hw; exact ⟨by omega, by omega⟩), Memory.read_write h]
      simp
    | succ i =>
      rw [show a + (i + 1) = a + 1 + i by omega, ih h1 i (by omega) (by omega)]
      rfl

/-- A save writes only to the persistent area (R186). -/
theorem saveWrites_mem {p : Persistent} {w : Nat × Byte} (h : w ∈ saveWrites p) :
    persistentBase ≤ w.1 ∧ w.1 < persistentBase + saveLength := by
  simp only [saveWrites, List.mem_append, List.mem_singleton] at h
  rcases h with h | rfl
  · have := writesFrom_mem h
    simp [bytesOfHalf, bytesOfCount, persistentBase, saveLength] at this ⊢
    omega
  · simp [saveLength]

/-- A save's bytes are 26, the marker last (R186). -/
theorem saveWrites_last (p : Persistent) :
    (saveWrites p).length = saveLength ∧ (saveWrites p).getLast? = some (persistentBase, p.marker) := by
  constructor
  · simp [saveWrites, saveLength, bytesOfHalf, bytesOfCount, writesFrom]
  · simp [saveWrites]

/-! ### The node and the memory through the start sequence -/

@[simp] theorem State.startBlocks_frame (s : State) :
    s.startBlocks.pending = s.pending ∧ s.startBlocks.timeBase = s.timeBase ∧ s.startBlocks.pins = s.pins ∧
    s.startBlocks.node = s.node ∧ s.startBlocks.memory = s.memory ∧ s.startBlocks.config = s.config ∧
    s.startBlocks.counters = s.counters ∧ s.startBlocks.seq = s.seq ∧ s.startBlocks.link = s.link ∧
    s.startBlocks.reject = s.reject := by
  generalize hu : s.startBlocks = u
  simp only [State.startBlocks, State.startSteam, State.startClosing, State.startVerdicts,
    State.startTransit] at hu
  (repeat' split at hu) <;> subst hu <;> simp

@[simp] theorem State.joinAndEnter_frame (s : State) :
    s.joinAndEnter.pending = s.pending ∧ s.joinAndEnter.timeBase = s.timeBase ∧
    s.joinAndEnter.pins = s.pins ∧ s.joinAndEnter.memory = s.memory ∧
    s.joinAndEnter.config.header = s.config.header ∧ s.joinAndEnter.config.banks = s.config.banks ∧
    s.joinAndEnter.seq = s.seq ∧ s.joinAndEnter.reject = s.reject ∧
    s.joinAndEnter.node =
      { s.node with mode := if s.node.halts then .halted else .operating, awaitingCrystal := false } := by
  generalize hu : s.joinAndEnter = u
  simp only [State.joinAndEnter] at hu
  split at hu <;> rename_i h <;> subst hu <;> simp_all

@[simp] theorem State.crystalStarts_frame (s : State) :
    s.crystalStarts.pending = s.pending ∧ s.crystalStarts.timeBase = s.timeBase ∧
    s.crystalStarts.pins = s.pins ∧ s.crystalStarts.memory = s.memory ∧
    s.crystalStarts.config.header = s.config.header ∧ s.crystalStarts.config.banks = s.config.banks ∧
    s.crystalStarts.seq = s.seq ∧ s.crystalStarts.reject = s.reject ∧
    s.crystalStarts.node =
      { s.node with
        mode := if s.node.halts then .halted else .operating, awaitingCrystal := false,
        onCrystal := true } := by
  generalize hu : s.crystalStarts = u
  simp only [State.crystalStarts] at hu
  split at hu <;> subst hu <;> simp [Node.halts]

@[simp] theorem State.crystalFails_frame (s : State) :
    s.crystalFails.pending = s.pending ∧ s.crystalFails.timeBase = s.timeBase ∧
    s.crystalFails.pins = s.pins ∧ s.crystalFails.memory = s.memory ∧
    s.crystalFails.config.header = s.config.header ∧ s.crystalFails.config.banks = s.config.banks ∧
    s.crystalFails.seq = s.seq ∧ s.crystalFails.reject = s.reject ∧
    s.crystalFails.node =
      { s.node with mode := if s.node.halts then .halted else .operating, awaitingCrystal := false } := by
  simp [State.crystalFails]
  rfl

/-- The memory after step 5 is the one before it, or that with the marker written invalid (R184). -/
theorem State.takePersistent_memory (s : State) :
    s.takePersistent.memory = s.memory ∨ s.takePersistent.memory = Memory.write s.memory persistentBase 0 := by
  generalize hu : s.takePersistent = u
  simp only [State.takePersistent] at hu
  (repeat' split at hu) <;> subst hu <;> simp

@[simp] theorem State.takePersistent_frame (s : State) :
    s.takePersistent.pending = s.pending ∧ s.takePersistent.timeBase = s.timeBase ∧
    s.takePersistent.pins = s.pins ∧ s.takePersistent.config.header = s.config.header ∧
    s.takePersistent.config.banks = s.config.banks ∧ s.takePersistent.counters = s.counters ∧
    s.takePersistent.tracker = s.tracker ∧ s.takePersistent.steam = s.steam ∧
    s.takePersistent.closing = s.closing ∧ s.takePersistent.link = s.link ∧
    s.takePersistent.transit = s.transit ∧ s.takePersistent.reject = s.reject ∧
    s.takePersistent.verdicts.awaited = s.verdicts.awaited ∧
    s.takePersistent.verdicts.goodRun = s.verdicts.goodRun ∧
    s.takePersistent.node.saving = s.node.saving ∧ s.takePersistent.node.mode = s.node.mode ∧
    s.takePersistent.node.role = s.node.role ∧ s.takePersistent.node.address = s.node.address ∧
    s.takePersistent.node.cause = s.node.cause ∧ s.takePersistent.node.halts = s.node.halts ∧
    s.takePersistent.node.awaitingCrystal = s.node.awaitingCrystal ∧
    s.takePersistent.seq.cycle = s.seq.cycle := by
  generalize hu : s.takePersistent = u
  simp only [State.takePersistent] at hu
  (repeat' split at hu) <;> subst hu <;> simp [Node.halts]

/-- The state at the end of step 5, before the crystal wait (R183). -/
def State.afterStepFive (s : State) (cause : ResetCause) (inp : StartInputs) : State :=
  let s1 := s.afterReset cause
  let s2 := s1.withMemory (Memory.writeAll s1.memory (inp.memoryChanges.map fun c => (c.1.toNat, c.2)))
  ((s2.readStraps inp).readConfig inp).takePersistent

/-- What holds at the end of step 5, whatever the state before the reset. -/
theorem State.afterStepFive_blocks (s : State) (cause : ResetCause) (inp : StartInputs) :
    (s.afterStepFive cause inp).pending = s.pending ∧ (s.afterStepFive cause inp).timeBase = 0 ∧
    (s.afterStepFive cause inp).pins = s.pins ∧
    (s.afterStepFive cause inp).counters = Counters.zero ∧
    (s.afterStepFive cause inp).tracker = Tracker.reset ∧
    (s.afterStepFive cause inp).steam = Steam.reset ∧ (s.afterStepFive cause inp).closing = Closing.reset ∧
    (s.afterStepFive cause inp).transit = Transit.reset ∧
    (s.afterStepFive cause inp).reject = RejectUnit.reset ∧
    (s.afterStepFive cause inp).verdicts.awaited = [] ∧
    (s.afterStepFive cause inp).verdicts.goodRun = PerBank.all 0 ∧
    (s.afterStepFive cause inp).node.saving = [] ∧ (s.afterStepFive cause inp).node.mode = .start ∧
    (s.afterStepFive cause inp).node.awaitingCrystal = false ∧
    (s.afterStepFive cause inp).node.role = (if inp.roleHigh then .check else .head) ∧
    (s.afterStepFive cause inp).node.address = inp.addr ∧
    (s.afterStepFive cause inp).node.cause = cause ∧
    (s.afterStepFive cause inp).seq.cycle = .idle ∧
    (s.afterStepFive cause inp).link =
      { Link.reset with state := if isController inp.addr then .off else .starting } := by
  simp only [State.afterStepFive, State.takePersistent_frame, State.readConfig, State.readStraps]
  split <;>
    simp [State.afterReset, State.reset, Node.reset, VerdictList.reset, Sequencer.reset, Link.reset, *]

/-- A reset with the power warning asserted leaves the node in SAVED with nothing to write; any other ends
step 5, and then step 6 at once or waiting (R183, R186). -/
theorem State.startSequence_cases (s : State) (cause : ResetCause) (inp : StartInputs) :
    s.startSequence cause inp =
      if s.pins.pwarn then
        ((s.afterReset cause).withMemory
          (Memory.writeAll s.memory (inp.memoryChanges.map fun c => (c.1.toNat, c.2)))).withNode
          { Node.reset with cause := cause, mode := .saved }
      else if inp.crystalReady then (s.afterStepFive cause inp).crystalStarts
      else (s.afterStepFive cause inp).withNode
        { (s.afterStepFive cause inp).node with awaitingCrystal := true } := by
  simp only [State.startSequence, State.afterStepFive]
  rfl

/-- The start sequence keeps the memory canonical and leaves no save running. -/
theorem State.startSequence_memoryOk {s : State} (h : Memory.wf s.memory) (cause : ResetCause)
    (inp : StartInputs) : (s.startSequence cause inp).memoryOk := by
  have hc : ∀ w ∈ inp.memoryChanges.map (fun c => (c.1.toNat, c.2)), w.1 < Config.memoryBytes := by
    intro w hw
    obtain ⟨c, -, rfl⟩ := List.mem_map.mp hw
    exact c.1.isLt
  have h1 := Memory.writeAll_wf h hc
  have h2 : Memory.wf (s.afterStepFive cause inp).memory := by
    simp only [State.afterStepFive]
    rcases State.takePersistent_memory
      ((((s.afterReset cause).withMemory _).readStraps inp).readConfig inp) with h3 | h3 <;> rw [h3]
    · have : ∀ x : State, ((x.readStraps inp).readConfig inp).memory = x.memory := by
        intro x; simp only [State.readConfig, State.readStraps]; split <;> simp
      rw [this]; simpa [State.afterReset] using h1
    · have : ∀ x : State, ((x.readStraps inp).readConfig inp).memory = x.memory := by
        intro x; simp only [State.readConfig, State.readStraps]; split <;> simp
      rw [this]
      exact Memory.write_wf (by simpa [State.afterReset] using h1) _ (by decide)
  have h3 := (State.afterStepFive_blocks s cause inp).2.2.2.2.2.2.2.2.2.2.2.1
  rw [State.startSequence_cases]
  unfold State.memoryOk
  split_ifs
  · exact ⟨by simpa using h1, by simp [Node.reset]⟩
  · exact ⟨by simpa using h2, by simp [h3]⟩
  · exact ⟨by simpa using h2, by simp [h3]⟩

/-- Cutting a save short keeps the memory canonical. -/
theorem State.cutSave_wf {s : State} (h : s.memoryOk) (cut : Nat) : Memory.wf (s.cutSave cut).memory := by
  simp only [State.cutSave, State.withMemory_memory]
  exact Memory.writeAll_wf h.1 fun w hw => h.2 w (List.mem_of_mem_take hw)

/-- The head's part of the warning leaves the node and the memory. -/
@[simp] theorem State.warn_frame (s : State) :
    s.warnHead.node = s.node ∧ s.warnHead.memory = s.memory ∧ s.warnCheck.node = s.node ∧
    s.warnCheck.memory = s.memory ∧ s.warnHead.pending = s.pending ∧ s.warnCheck.pending = s.pending ∧
    s.warnHead.pins = s.pins ∧ s.warnCheck.pins = s.pins ∧ s.warnHead.timeBase = s.timeBase ∧
    s.warnCheck.timeBase = s.timeBase := by
  simp [State.warnHead, State.warnCheck]

/-- Taking the warning leaves the memory and gives a save that stays inside it. -/
theorem State.takeWarning_memoryOk {s : State} (h : s.memoryOk) : s.takeWarning.memoryOk := by
  have hb : ∀ x : State, Memory.wf x.memory → x.beginSave.memoryOk := fun x hx => by
    refine ⟨by simpa [State.beginSave] using hx, fun w hw => ?_⟩
    have := saveWrites_mem (w := w) (by simpa [State.beginSave] using hw)
    simp [persistentBase, saveLength, Config.memoryBytes] at this ⊢; omega
  have hn : ∀ x : State, Memory.wf x.memory → x.saveNothing.memoryOk := fun x hx =>
    ⟨by simpa [State.saveNothing] using hx, by simp [State.saveNothing]⟩
  simp only [State.takeWarning]
  (repeat' split) <;> first | exact h | (apply hb; simpa using h.1) | (apply hn; exact h.1)

/-- The end of a save keeps the memory canonical. -/
theorem State.finishSave_memoryOk {s : State} (h : s.memoryOk) : s.finishSave.memoryOk := by
  refine ⟨?_, by simp [State.finishSave]⟩
  simpa [State.finishSave] using Memory.writeAll_wf h.1 h.2

end Sys2Proof.Machine
end

