-- ==== Sys2Proof/Laws/Valve.lean ====
section
/-! SUPPORT. Every operation keeps the law of the valve and of the dose (R31, R53 to R59, R65). -/

namespace Sys2Proof.Machine

/-! ### The cycle state that the steam unit leaves -/

@[simp] theorem State.closeFlush_cycle (s : State) (c : FlushEnd) :
    (s.closeFlush c).seq.cycle = s.seq.cycle := by
  simp only [State.closeFlush]
  (repeat' split) <;> simp

@[simp] theorem State.shutRequest_cycle (s : State) (c : FlushEnd) :
    (s.shutRequest c).seq.cycle = s.seq.cycle := by
  simp only [State.shutRequest]
  (repeat' split) <;> simp

@[simp] theorem State.openRequest_cycle (s : State) (t : Nat) :
    (s.openRequest t).seq.cycle = s.seq.cycle := by
  simp only [State.openRequest]
  (repeat' split) <;> simp

@[simp] theorem State.markValveFault_cycle (s : State) :
    (s.markValveFault).seq.cycle = s.seq.cycle := by
  simp only [State.markValveFault]
  (repeat' split) <;> simp

@[simp] theorem State.enterFaultShut_cycle (s : State) :
    (s.enterFaultShut).seq.cycle = s.seq.cycle := by
  simp only [State.enterFaultShut]
  (repeat' split) <;> simp

@[simp] theorem State.enterFaultOpen_cycle (s : State) :
    (s.enterFaultOpen).seq.cycle = s.seq.cycle := by
  simp only [State.enterFaultOpen]
  (repeat' split) <;> simp

@[simp] theorem State.feedbackChanged_cycle (s : State) :
    (s.feedbackChanged).seq.cycle = s.seq.cycle := by
  simp only [State.feedbackChanged]
  (repeat' split) <;> simp

@[simp] theorem State.settleExpired_cycle (s : State) :
    (s.settleExpired).seq.cycle = s.seq.cycle := by
  simp only [State.settleExpired]
  (repeat' split) <;> simp

@[simp] theorem State.takeTick_cycle (s : State) (due : Time) :
    (s.takeTick due).seq.cycle = s.seq.cycle := by
  simp only [State.takeTick]
  (repeat' split) <;> simp

@[simp] theorem State.unitTakes_cycle (s : State) (e : SampleEvent) :
    (s.unitTakes e).1.seq.cycle = s.seq.cycle := by
  obtain ⟨c, n, h | h⟩ := s.unitTakes_sampled e <;> rw [h] <;> simp

@[simp] theorem State.takeTemperature_cycle (s : State) :
    (s.takeTemperature).seq.cycle = s.seq.cycle := by
  simp only [State.takeTemperature]
  (repeat' split) <;> simp

@[simp] theorem State.clearFaultShut_cycle (s : State) :
    (s.clearFaultShut).seq.cycle = s.seq.cycle := by
  simp only [State.clearFaultShut]
  (repeat' split) <;> simp

/-! ### The law -/

/-- The steam unit obeys its law beside its cycle. -/
def State.valveOk (s : State) : Prop := s.steam.ok s.seq.cycle s.config.header.qn

/-- Only the steam unit, the cycle state and Qn matter to the law. -/
theorem State.valveOk_of_eq {s u : State} (h : s.valveOk) (h1 : u.steam = s.steam)
    (h2 : u.seq.cycle = s.seq.cycle) (h3 : u.config.header = s.config.header) : u.valveOk := by
  unfold State.valveOk at *
  rw [h1, h2, h3]; exact h

/-- With no flush open the law asks of the cycle only that an attached cycle is not yet posted. -/
theorem Steam.ok.recycle {st : Steam} {c d : CycleState} {qn : Nat} (h : st.ok c qn)
    (hf : st.flush ≠ .opened) (hc : c.steams ∨ c = .ended → d.steams ∨ d = .ended) : st.ok d qn where
  commanded := h.commanded
  flushing := h.flushing
  cycling := fun x => absurd x hf
  attachment := fun x => hc (h.attachment x)
  uncounted := h.uncounted
  ticking := fun x => ⟨(h.ticking x).1, hc (h.ticking x).2⟩
  below := h.below
  bounded := h.bounded

/-- What one shut request does to the steam unit. -/
theorem State.shutRequest_steam (s : State) (c : FlushEnd) :
    (s.steam.flush ≠ .opened ∧ (s.shutRequest c) = s) ∨
    (s.steam.flush = .opened ∧ (s.shutRequest c).steam.flush = .ended ∧
      (s.shutRequest c).steam.commandOpen = false ∧ (s.shutRequest c).steam.target = s.steam.target ∧
      (s.shutRequest c).steam.dose = s.steam.dose ∧
      ((s.shutRequest c).steam.attached = true → s.steam.attached = true) ∧
      ((s.steam.valve = .opened ∧ (s.shutRequest c).steam.ticks = none ∧
          ((s.shutRequest c).steam.valve = .shutting ∨ (s.shutRequest c).steam.valve = .shut)) ∨
        (s.steam.valve = .opening ∧ (s.shutRequest c).steam.ticks = s.steam.ticks ∧
          ((s.shutRequest c).steam.valve = .shutting ∨ (s.shutRequest c).steam.valve = .shut)) ∨
        (s.steam.valve ≠ .opened ∧ s.steam.valve ≠ .opening ∧
          (s.shutRequest c).steam.ticks = s.steam.ticks ∧
          (s.shutRequest c).steam.valve = s.steam.valve))) := by
  simp only [State.shutRequest]
  split
  · rename_i hf
    right
    have hf : s.steam.flush = .opened := by simpa using hf
    have h1 : (s.closeFlush c).steam = { s.steam with flush := .ended } := by
      simp only [State.closeFlush]; split <;> simp
    generalize s.closeFlush c = x at h1
    simp only [State.shutValve]
    (repeat' split) <;> simp_all
  · rename_i hf
    exact Or.inl ⟨by simpa using hf, rfl⟩

/-- The law without its two clauses on the ticks: what a tick leaves before it looks at T. -/
def State.valveNear (s : State) : Prop :=
  Steam.ok { s.steam with ticks := none } s.seq.cycle s.config.header.qn

theorem State.valveOk.near {s : State} (h : s.valveOk) : s.valveNear :=
  ⟨h.commanded, h.flushing, h.cycling, h.attachment, h.uncounted, fun x => absurd rfl x,
    fun x => absurd rfl x, h.bounded⟩

/-- After a shut request no flush is open and the law stands. -/
theorem State.shutRequest_near {s : State} (h : s.valveNear) (c : FlushEnd)
    (ht : s.steam.flush ≠ .opened ∨ s.steam.valve ≠ .opened → s.steam.ticks ≠ none →
      ((s.steam.valve = .opened ∨ s.steam.valve = .faultOpen) ∧
        (s.seq.cycle.steams ∨ s.seq.cycle = .ended)) ∧
      ∃ t, s.steam.target = some t ∧ s.steam.dose < max 1 t) :
    (s.shutRequest c).valveOk ∧ (s.shutRequest c).steam.flush ≠ .opened := by
  rcases State.shutRequest_steam s c with ⟨hf, he⟩ | ⟨hf, h1, h2, h3, h4, h5, h6⟩
  · rw [he]
    exact ⟨⟨h.commanded, h.flushing, h.cycling, h.attachment, h.uncounted,
      fun x => (ht (Or.inl hf) x).1, fun x => (ht (Or.inl hf) x).2, h.bounded⟩, hf⟩
  · have hs : (s.shutRequest c).seq.cycle = s.seq.cycle := by simp
    have hq : (s.shutRequest c).config.header = s.config.header := by simp
    unfold State.valveOk
    rw [hs, hq]
    generalize (s.shutRequest c).steam = x at *
    refine ⟨⟨by simp [h2], ?_, by simp [h1], fun y => h.attachment (h5 y), ?_, ?_, ?_, ?_⟩, by simp [h1]⟩
    · rcases h6 with ⟨_, _, hv | hv⟩ | ⟨_, _, hv | hv⟩ | ⟨ho, hp, _, hv⟩ <;> simp_all
    · rcases h6 with ⟨_, _, hv | hv⟩ | ⟨_, _, hv | hv⟩ | ⟨ho, hp, _, hv⟩ <;> simp_all
    · intro hn
      rcases h6 with ⟨_, h7, hv⟩ | ⟨hv, h7, _⟩ | ⟨ho, hp, h7, hv⟩
      · exact absurd h7 hn
      · rw [h7] at hn; simpa [hv] using (ht (Or.inr (by simp [hv])) hn).1.1
      · rw [h7] at hn; rw [hv]; exact (ht (Or.inr ho) hn).1
    · intro hn
      rw [h3, h4]
      rcases h6 with ⟨_, h7, hv⟩ | ⟨hv, h7, _⟩ | ⟨ho, hp, h7, hv⟩
      · exact absurd h7 hn
      · rw [h7] at hn; exact (ht (Or.inr (by simp [hv])) hn).2
      · rw [h7] at hn; exact (ht (Or.inr ho) hn).2
    · rw [h3, h4]; exact h.bounded

theorem State.shutRequest_valveOk {s : State} (h : s.valveOk) (c : FlushEnd) :
    (s.shutRequest c).valveOk ∧ (s.shutRequest c).steam.flush ≠ .opened :=
  State.shutRequest_near h.near c fun _ x => ⟨h.ticking x, h.below x⟩

/-- A change of the cycle state with no flush open, to one that an attached cycle may have. -/
theorem State.valveOk_recycle {s u : State} (h : s.valveOk) (hf : s.steam.flush ≠ .opened)
    (h1 : u.steam = s.steam) (h3 : u.config.header = s.config.header)
    (hc : u.seq.cycle.steams ∨ u.seq.cycle = .ended) : u.valveOk := by
  unfold State.valveOk
  rw [h1, h3]
  exact Steam.ok.recycle h hf fun _ => hc

/-- A cycle neither at work nor ended leaves the unit without a flush, an attached cycle or ticks. -/
theorem State.valveOk.idle {s : State} (h : s.valveOk) (hc : ¬ (s.seq.cycle.steams ∨ s.seq.cycle = .ended)) :
    s.steam.flush ≠ .opened ∧ s.steam.attached = false ∧ s.steam.ticks = none ∧
      s.steam.valve ≠ .opening ∧ s.steam.valve ≠ .opened ∧ s.steam.commandOpen = false := by
  have hf : s.steam.flush ≠ .opened := fun x => hc (Or.inl (h.cycling x))
  refine ⟨hf, ?_, ?_, fun x => hf (h.flushing (Or.inl x)), fun x => hf (h.flushing (Or.inr x)), ?_⟩
  · cases ha : s.steam.attached
    · rfl
    · exact absurd (h.attachment ha) hc
  · exact Classical.byContradiction fun x => hc (h.ticking x).2
  · cases ha : s.steam.commandOpen
    · rfl
    · exact absurd (h.flushing (h.commanded ha)) hf

/-- With no flush, no attached cycle and no ticks the law stands beside every cycle state. -/
theorem State.valveOk_rest {s u : State} (h : s.valveOk) (hf : s.steam.flush ≠ .opened)
    (ha : s.steam.attached = false) (ht : s.steam.ticks = none)
    (h1 : u.steam = s.steam) (h3 : u.config.header = s.config.header) : u.valveOk := by
  unfold State.valveOk
  rw [h1, h3]
  exact ⟨h.commanded, h.flushing, fun x => absurd x hf, by simp [ha], h.uncounted, by simp [ht],
    h.below, h.bounded⟩

/-! ### Posting and aborts -/

theorem State.postRecord_valveOk {s : State} (h : s.valveOk) :
    s.postRecord.valveOk ∧ s.postRecord.seq.cycle = .idle := by
  obtain ⟨h1, h2⟩ := State.shutRequest_valveOk h .abort
  have hq : (s.shutRequest .abort).config.header = s.config.header := by simp
  simp only [State.postRecord]
  generalize s.shutRequest .abort = x at h1 h2 hq
  have ht : x.steam.valve ≠ .faultOpen → x.steam.ticks = none := fun hv =>
    Classical.byContradiction fun y => (h1.ticking y).1.elim
      (fun z => h2 (h1.flushing (Or.inr z))) hv
  have key : ∀ u : State, u.steam.valve = x.steam.valve → u.steam.commandOpen = x.steam.commandOpen →
      u.steam.flush = .none → u.steam.attached = false →
      u.steam.ticks = (if x.steam.valve == .faultOpen then none else x.steam.ticks) →
      u.steam.target = x.steam.target → u.steam.dose = x.steam.dose →
      u.config.header = x.config.header → u.valveOk := by
    intro u e1 e2 e3 e4 e5 e6 e7 e8
    have e5 : u.steam.ticks = none := by
      rw [e5]; split
      · rfl
      · rename_i hv; exact ht (by simpa using hv)
    unfold State.valveOk
    refine ⟨?_, ?_, by simp [e3], by simp [e4], ?_, by simp [e5], by simp [e5], ?_⟩
    · rw [e1, e2]; exact h1.commanded
    · rw [e1]; exact fun y => absurd (h1.flushing y) h2
    · rw [e1, e6, e7]; exact h1.uncounted
    · rw [e6, e7, e8]; exact h1.bounded
  split
  · exact ⟨by apply key <;> simp [State.detach], rfl⟩
  · refine ⟨?_, rfl⟩
    split <;> (apply key <;> simp [State.detach])

theorem State.releaseAndPost_valveOk {s : State} (h : s.valveOk) :
    s.releaseAndPost.valveOk ∧ s.releaseAndPost.seq.cycle = .idle := by
  simp only [State.releaseAndPost]
  split
  · exact State.postRecord_valveOk (State.valveOk_of_eq h (by simp) (by simp) (by simp))
  · exact State.postRecord_valveOk h

theorem State.abort_valveOk {s : State} (h : s.valveOk) (cause : AbortCause) :
    (s.abort cause).valveOk ∧ (s.abort cause).seq.cycle = .ended := by
  obtain ⟨h1, h2⟩ := State.shutRequest_valveOk h .abort
  simp only [State.abort]
  generalize s.shutRequest .abort = x at h1 h2
  refine ⟨State.valveOk_recycle h1 h2 ?_ ?_ (Or.inr rfl), rfl⟩ <;> split <;> simp

theorem State.abortWorking_valveOk {s : State} (h : s.valveOk) (cause : AbortCause) :
    (s.abortWorking cause).valveOk := by
  simp only [State.abortWorking]
  split
  · exact (State.abort_valveOk h cause).1
  · exact h

theorem State.abortIndex_valveOk {s : State} (h : s.valveOk) : s.abortIndex.valveOk := by
  simp only [State.abortIndex]
  split
  · exact h
  · exact (State.abort_valveOk h _).1

theorem State.abortPower_valveOk {s : State} (h : s.valveOk) : s.abortPower.valveOk := by
  have h1 : (s.abort .power).valveOk := (State.abort_valveOk h .power).1
  have h2 := (State.releaseAndPost_valveOk h1).1
  have h3 := (State.releaseAndPost_valveOk h).1
  unfold State.abortPower
  generalize (s.abort .power).releaseAndPost = x at h2
  split
  · exact h
  · split
    · exact (State.releaseAndPost_valveOk h1).1
    · exact h3
  · exact h2

/-! ### The valve -/

theorem State.closeFlush_steam (s : State) (c : FlushEnd) :
    (s.closeFlush c).steam = { s.steam with flush := .ended } := by
  simp only [State.closeFlush]
  split <;> simp

theorem State.enterFaultShut_steam (s : State) :
    s.enterFaultShut.steam =
      { s.steam with
        valve := .faultShut, commandOpen := false, settle := none, ticks := none,
        flush := if s.steam.flush = .opened then .ended else s.steam.flush } := by
  have h : ∀ x : State, x.markValveFault.steam = x.steam := fun x => by simp
  simp only [State.enterFaultShut]
  generalize hx : State.markValveFault _ = x
  have hs := congrArg State.steam hx
  rw [h] at hs
  simp only [State.withSteam_steam] at hs
  have ho : ∀ (y : State) (n : Notice), (y.offer n).steam = y.steam := fun y n => by simp
  rw [ho]
  by_cases hf : s.steam.flush = .opened
  · have : (x.steam.flush == .opened) = true := by rw [← hs]; simpa using hf
    rw [if_pos this, State.closeFlush_steam, ← hs]; simp [hf]
  · have : ¬ (x.steam.flush == .opened) = true := by rw [← hs]; simpa using hf
    rw [if_neg this, ← hs]; simp [hf]

theorem State.enterFaultShut_valveOk {s : State} (h : s.valveOk) : s.enterFaultShut.valveOk := by
  unfold State.valveOk
  rw [State.enterFaultShut_steam, State.enterFaultShut_cycle]
  have hq : s.enterFaultShut.config.header = s.config.header := by simp
  rw [hq]
  refine ⟨by simp, by simp, ?_, h.attachment, by simp, by simp, by simp, h.bounded⟩
  intro x
  simp only at x
  split at x
  · cases x
  · rename_i hn; exact absurd x hn

theorem State.enterFaultOpen_valveOk {s : State} (h : s.valveOk)
    (hv : s.steam.valve ≠ .opening ∧ s.steam.valve ≠ .opened) : s.enterFaultOpen.valveOk := by
  have hco : s.steam.commandOpen = false := by
    cases ha : s.steam.commandOpen
    · rfl
    · exact absurd (h.commanded ha) (by simp [hv.1, hv.2])
  simp only [State.enterFaultOpen]
  unfold State.valveOk
  refine ⟨by simp [hco], by simp, ?_, ?_, by simp, ?_, ?_, ?_⟩
  · simpa using h.cycling
  · simpa using h.attachment
  · simp only [State.offer_frame, State.markValveFault_frame, State.withSteam_steam, ne_eq,
      State.markValveFault_cycle, State.withSteam_seq]
    split
    · rename_i hc
      simp at hc
      exact fun _ => ⟨Or.inr trivial, h.attachment hc.1.2⟩
    · simp
  · simp only [State.offer_frame, State.markValveFault_frame, State.withSteam_steam, ne_eq]
    split
    · rename_i hc
      simp at hc
      intro _
      cases ht : s.steam.target with
      | none => simp [ht] at hc
      | some t => refine ⟨t, rfl, ?_⟩; simp [ht] at hc; omega
    · simp
  · simpa using h.bounded

theorem State.clearFault_valveOk {s : State} (h : s.valveOk)
    (hv : s.steam.valve ≠ .opening ∧ s.steam.valve ≠ .opened) : s.clearFault.valveOk := by
  have hco : s.steam.commandOpen = false := by
    cases ha : s.steam.commandOpen
    · rfl
    · exact absurd (h.commanded ha) (by simp [hv.1, hv.2])
  simp only [State.clearFault]
  unfold State.valveOk
  exact ⟨by simp [hco], by simp, by simpa using h.cycling, by simp, by simp, by simp, by simp,
    by simpa using h.bounded⟩

theorem State.clearFaultShut_valveOk {s : State} (h : s.valveOk) : s.clearFaultShut.valveOk := by
  simp only [State.clearFaultShut]
  split
  · rename_i hv; simp at hv; exact State.clearFault_valveOk h (by simp [hv])
  · exact h

theorem State.feedbackChanged_valveOk {s : State} (h : s.valveOk) : s.feedbackChanged.valveOk := by
  simp only [State.feedbackChanged]
  split
  · rename_i hv _
    have hf := h.flushing (Or.inl hv)
    obtain ⟨hd, t, ht⟩ := h.uncounted hv
    have hc := h.cycling hf
    simp only [State.enterOpen]
    unfold State.valveOk
    refine ⟨by simp, by simp [hf], by simpa using h.cycling, by simpa using h.attachment, by simp,
      by simp [hc], ?_, by simpa using h.bounded⟩
    simp [ht, hd]
  · rename_i hv _
    unfold State.valveOk
    refine ⟨?_, by simp, by simpa using h.cycling, by simp, by simp, ?_, by simpa using h.below,
      by simpa using h.bounded⟩
    · have := h.commanded; simpa [hv] using this
    · have := h.ticking; simp [hv] at this; simp [this]
  · rename_i hv _
    exact State.clearFault_valveOk h (by simp [hv])
  · exact h
  · exact ⟨h.commanded, h.flushing, h.cycling, h.attachment, h.uncounted, h.ticking, h.below, h.bounded⟩

theorem State.settleExpired_valveOk {s : State} (h : s.valveOk) : s.settleExpired.valveOk := by
  simp only [State.settleExpired]
  split
  · exact State.enterFaultShut_valveOk h
  · exact State.enterFaultShut_valveOk h
  all_goals first
    | (rename_i hv; exact State.enterFaultOpen_valveOk h (by simp [hv]))
    | exact h

theorem State.openRequest_valveOk {s : State} (h : s.valveNear) (t : Nat)
    (hc : s.seq.cycle.steams) (hv : s.steam.valve ≠ .opening ∧ s.steam.valve ≠ .opened)
    (ht : s.steam.ticks = none) : (s.openRequest t).valveOk := by
  have hco : s.steam.commandOpen = false := by
    cases ha : s.steam.commandOpen
    · rfl
    · exact absurd (h.commanded ha) (by simp [hv.1, hv.2])
  unfold State.valveOk
  have hcy : (s.openRequest t).seq.cycle = s.seq.cycle := by simp
  rw [hcy]
  simp only [State.openRequest, State.enterOpen, State.closeFlush]
  (repeat' split) <;>
    (constructor <;> simp_all <;> (first | omega | skip))

/-! ### The dose -/

theorem loadShare_le (k n : Nat) : loadShare k n ≤ 256 := by
  unfold loadShare
  split
  · exact Nat.le_refl _
  · rename_i h
    apply Nat.div_le_of_le_mul
    rw [Nat.mul_comm]
    exact Nat.mul_le_mul (by omega) (Nat.le_refl _)

theorem doseIncrement_le (qn : Nat) {share : Nat} (h : share ≤ 256) : doseIncrement qn share ≤ max 1 qn := by
  unfold doseIncrement
  have h1 : qn * share ≤ qn * 256 := Nat.mul_le_mul (Nat.le_refl _) h
  omega

theorem State.takeTick_valveOk {s : State} (h : s.valveOk) {due : Time} (hd : s.steam.ticks ≠ none) :
    (s.takeTick due).valveOk := by
  obtain ⟨t, ht, hb⟩ := h.below hd
  obtain ⟨hv, hc⟩ := h.ticking hd
  have hi := doseIncrement_le s.config.header.qn (loadShare_le s.config.header.k s.openValves)
  simp only [State.takeTick]
  generalize doseIncrement s.config.header.qn (loadShare s.config.header.k s.openValves) = i at hi ⊢
  have hbound : ∀ t', s.steam.target = some t' →
      min 65535 (s.steam.dose + i) < max 1 t' + max 1 s.config.header.qn := by
    intro t' h'
    rw [ht] at h'
    have := Option.some.inj h'
    omega
  split
  · split
    · rename_i hvo
      simp at hvo
      have hf : s.steam.flush = .opened := h.flushing (Or.inr hvo)
      refine (State.shutRequest_near ?_ _ (fun hx => ?_)).1
      · unfold State.valveNear
        exact ⟨by simpa using h.commanded, by simpa using h.flushing, by simpa using h.cycling,
          by simpa using h.attachment, by simp [hvo], by simp, by simp, by simpa using hbound⟩
      · simp [hf, hvo] at hx
    · rename_i hvo
      have hvf : s.steam.valve = .faultOpen := by
        rcases hv with hv | hv
        · exact absurd (by simpa using hv) hvo
        · exact hv
      unfold State.valveOk
      exact ⟨by simpa using h.commanded, by simpa using h.flushing, by simpa using h.cycling,
        by simpa using h.attachment, by simp [hvf], by simp, by simp, by simpa using hbound⟩
  · rename_i hlt
    unfold State.valveOk
    refine ⟨by simpa using h.commanded, by simpa using h.flushing, by simpa using h.cycling,
      by simpa using h.attachment, ?_, ?_, ?_, by simpa using hbound⟩
    · rcases hv with hv | hv <;> simp [hv]
    · intro _; exact ⟨by simpa using hv, by simpa using hc⟩
    · intro _; refine ⟨t, by simpa using ht, ?_⟩
      simp [ht] at hlt ⊢; omega

end Sys2Proof.Machine
end

