-- ==== Sys2Proof/Laws/Cycle.lean ====
section
/-! SUPPORT. What a shut request, an abort and a posting do to the record, the counts and the verdict
list. -/

namespace Sys2Proof.Machine

/-- What closing a flush writes into a record (R54, R56). -/
def Record.flushed (r : Record) (cause : FlushEnd) (full : Bool) : Record :=
  { r with flushEnd := cause, steamResult := if full then .full else .underflush }

/-- Closing the flush writes the cause and the result, and counts an UNDERFLUSH (R54, R56). -/
theorem State.closeFlush_parts (s : State) (c : FlushEnd) :
    let full := decide (s.steam.target.getD 0 ≤ s.steam.dose)
    (s.closeFlush c).seq = { s.seq with record := s.seq.record.map fun r => r.flushed c full } ∧
    (s.closeFlush c).link = s.link ∧ (s.closeFlush c).config = s.config ∧
    (s.closeFlush c).verdicts = s.verdicts ∧ (s.closeFlush c).closing = s.closing ∧
    (s.closeFlush c).counters.head = (if full then s.counters.head
      else { s.counters.head with underflushes := s.counters.head.underflushes + 1 }) ∧
    (s.closeFlush c).counters.check = s.counters.check ∧ (s.closeFlush c).counters.link = s.counters.link ∧
    (s.closeFlush c).counters.refused = s.counters.refused := by
  simp only [State.closeFlush, Record.flushed]
  cases decide (s.steam.target.getD 0 ≤ s.steam.dose) <;> simp

/-- A shut request on an open flush: the record, the counts, and what stays (R54). -/
theorem State.shutRequest_parts (s : State) (c : FlushEnd) :
    let full := decide (s.steam.target.getD 0 ≤ s.steam.dose)
    (s.shutRequest c).seq = (if s.steam.flush = .opened then
      { s.seq with record := s.seq.record.map fun r => r.flushed c full } else s.seq) ∧
    (s.shutRequest c).config.lifetime = s.config.lifetime ∧
    (s.shutRequest c).verdicts = s.verdicts ∧ (s.shutRequest c).closing = s.closing ∧
    (s.shutRequest c).counters.head = (if s.steam.flush = .opened ∧ full = false then
      { s.counters.head with underflushes := s.counters.head.underflushes + 1 } else s.counters.head) ∧
    (s.shutRequest c).counters.check = s.counters.check ∧
    (s.shutRequest c).counters.refused = s.counters.refused ∧
    (s.shutRequest c).steam.flush ≠ .opened := by
  have h := s.closeFlush_parts c
  simp only at h
  simp only [State.shutRequest, beq_iff_eq]
  have hv : ∀ x : State, x.shutValve.seq = x.seq ∧ x.shutValve.config.lifetime = x.config.lifetime ∧
      x.shutValve.verdicts = x.verdicts ∧ x.shutValve.closing = x.closing ∧
      x.shutValve.counters.head = x.counters.head ∧ x.shutValve.counters.check = x.counters.check ∧
      x.shutValve.counters.refused = x.counters.refused ∧ x.shutValve.steam.flush = x.steam.flush := by
    intro x; simp only [State.shutValve]
    (repeat' split) <;> simp
  have hf : (s.closeFlush c).steam.flush = .ended := by
    simp only [State.closeFlush]; split <;> simp
  by_cases hs : s.steam.flush = .opened
  · simp only [hs, if_true, hv, h, hf, true_and]
    cases decide (s.steam.target.getD 0 ≤ s.steam.dose) <;> simp
  · simp [hs]

/-- What an abort writes, whatever the record held (R39). -/
theorem Record.abort_fields (r : Record) (c : AbortCause) :
    (r.abort c).revolution = r.revolution ∧ (r.abort c).bank = r.bank ∧
    (r.abort c).jarPresent = r.jarPresent ∧ (r.abort c).dose = r.dose ∧ (r.abort c).vPred = r.vPred ∧
    (r.jarPresent = true → (r.abort c).capVerdict = some .aborted) := by
  simp only [Record.abort]
  split
  · rename_i h
    rcases Bool.or_eq_true _ _ ▸ h with h | h <;> simp_all
  · simp

/-- The effects of an abort on everything but the link and the steam unit (R39). -/
theorem State.abort_parts (s : State) (c : AbortCause) :
    let full := decide (s.steam.target.getD 0 ≤ s.steam.dose)
    (s.abort c).seq = { s.seq with
      record := s.seq.record.map fun r =>
        (if s.steam.flush = .opened then r.flushed .abort full else r).abort c
      cycle := .ended, capGate := if s.seq.cycle = .loading then false else s.seq.capGate } ∧
    (s.abort c).config.lifetime = { s.config.lifetime with four := s.config.lifetime.four + 1 } ∧
    (s.abort c).verdicts = s.verdicts ∧
    (s.abort c).closing = (if s.seq.reachedClosing then s.closing.stop else s.closing) ∧
    (s.abort c).counters.head = { s.counters.head with
      cycleAborts := s.counters.head.cycleAborts + 1
      underflushes := s.counters.head.underflushes +
        if s.steam.flush = .opened ∧ full = false then 1 else 0 } ∧
    (s.abort c).steam.flush ≠ .opened := by
  have h := s.shutRequest_parts .abort
  simp only at h
  obtain ⟨h1, h2, h3, h4, h5, h6, h7, h8⟩ := h
  simp only [State.abort, State.onClosing, State.onRecord]
  have hr : (s.shutRequest .abort).seq.reachedClosing = s.seq.reachedClosing := by rw [h1]; split <;> rfl
  have hc : (s.shutRequest .abort).seq.cycle = s.seq.cycle := by rw [h1]; split <;> rfl
  have hg : (s.shutRequest .abort).seq.capGate = s.seq.capGate := by rw [h1]; split <;> rfl
  by_cases hf : s.steam.flush = .opened <;> cases hx : s.seq.reachedClosing <;>
    cases hd : decide (s.steam.target.getD 0 ≤ s.steam.dose) <;>
    simp [hr, hx, hc, hg, h1, h2, h3, h4, h5, h8, hf, hd, Function.comp_def]

/-- What a shut request does to the steam unit and the link (R54). -/
theorem State.shutRequest_flushShut (s : State) (c : FlushEnd) : (s.shutRequest c).FlushShut s := by
  have hc := s.closeFlush_parts c
  have hs : (s.closeFlush c).steam = { s.steam with flush := .ended } ∧
      (s.closeFlush c).pins = s.pins ∧ (s.closeFlush c).timeBase = s.timeBase := by
    simp only [State.closeFlush]; split <;> simp
  have hr : s.steam.flush = .opened → s.shutRequest c = (s.closeFlush c).shutValve := by
    intro hf; simp [State.shutRequest, hf]
  refine ⟨?_, ?_, ?_, ?_, ?_⟩
  · intro hf; simp [State.shutRequest, hf]
  · intro hf
    rcases s.shutRequest_steam c with ⟨h, _⟩ | ⟨_, h, h', _⟩
    · exact absurd hf h
    · exact ⟨h, h'⟩
  all_goals intro hf
  · intro hv
    rw [hr hf]
    simp only [State.shutValve, hs, hv]
    split <;> simp [State.offer_link, hc, hs, *]
  · intro hv hp
    rw [hr hf]
    simp [State.shutValve, hs, hv, hp, hc]
  · intro hv hv'
    rw [hr hf]
    simp only [State.shutValve, hs]
    cases hx : s.steam.valve <;> simp_all

/-- What a shut request has done stands in the steam unit and the link alone. -/
theorem State.FlushShut.congr {u v s : State} (h : v.FlushShut s) (hs : u.steam = v.steam)
    (hl : u.link = v.link) : u.FlushShut s := by
  obtain ⟨h1, h2, h3, h4, h5⟩ := h
  rw [← hs, ← hl] at h1 h3 h4 h5
  rw [← hs] at h2
  exact ⟨h1, h2, h3, h4, h5⟩

/-- An abort has the effects of R39. -/
theorem State.abort_aborted (s : State) (c : AbortCause) : (s.abort c).Aborted s c := by
  have hp := s.abort_parts c
  simp only at hp
  obtain ⟨h1, h2, h3, h4, h5, h6⟩ := hp
  have hsteam : (s.abort c).steam = (s.shutRequest .abort).steam ∧
      (s.abort c).link = (s.shutRequest .abort).link := by
    simp only [State.abort, State.onClosing]
    split <;> simp
  refine ⟨?_, ?_, (s.shutRequest_flushShut .abort).congr hsteam.1 hsteam.2, ⟨?_, h2⟩, ?_⟩
  · rw [h1]
    congr 2
    funext r
    by_cases hf : s.steam.flush = .opened <;> simp only [hf, if_true, if_false]
    · cases hj : r.jarPresent <;> by_cases hv : r.capVerdict = some .aborted <;>
        simp [Record.abort, Record.flushed, Record.endFlush, hj, hv]
    · cases hj : r.jarPresent <;> by_cases hv : r.capVerdict = some .aborted <;>
        simp [Record.abort, hj, hv]
  · rw [h4]
    cases hr : s.seq.reachedClosing <;> simp [Closing.stop, Closing.park, Closing.inForce]
  · rw [h5]
    simp only [decide_eq_false_iff_not, Nat.not_le]
    split <;> simp
  · exact ⟨h3, by simp, by simp, by simp, by simp, by simp⟩

/-- Posting an open record when no flush is open (R37, R38). -/
theorem State.postRecord_parts (s : State) (r : Record) (h : s.seq.record = some r)
    (hf : s.steam.flush ≠ .opened) :
    s.postRecord.seq = { s.seq with cycle := .idle, record := none, reachedClosing := false } ∧
    s.postRecord.closing = s.closing ∧
    s.postRecord.steam = { s.steam with
      attached := false, flush := .none,
      ticks := if s.steam.valve = .faultOpen then none else s.steam.ticks } ∧
    s.postRecord.link = (s.offer (s.noticeOf r)).link ∧
    s.postRecord.config.lifetime = { s.config.lifetime with
      one := s.config.lifetime.one + 1
      two := s.config.lifetime.two +
        if r.jarPresent = true ∧ r.capVerdict = some .good then 1 else 0 } ∧
    s.postRecord.verdicts = (if r.jarPresent then (s.addSummary (summaryOf r)).verdicts else s.verdicts) ∧
    s.postRecord.counters.head.cycleAborts = s.counters.head.cycleAborts ∧
    s.postRecord.counters.head.voids = s.counters.head.voids + (if r.jarPresent then 0 else 1) ∧
    s.postRecord.counters.head.sealsGood = s.counters.head.sealsGood +
      (if r.jarPresent = true ∧ r.capVerdict = some .good then 1 else 0) ∧
    s.postRecord.counters.head.sealsNotGood = s.counters.head.sealsNotGood +
      (if r.jarPresent = true ∧ r.capVerdict ≠ some .good then 1 else 0) := by
  have hn : s.shutRequest .abort = s := by simp [State.shutRequest, hf]
  have hadd : ∀ (x : State) (e : Summary), (x.addSummary e).link = x.link ∧
      (x.addSummary e).config = x.config ∧ (x.addSummary e).steam = x.steam ∧
      (x.addSummary e).closing = x.closing ∧ (x.addSummary e).seq = x.seq ∧
      (x.addSummary e).counters.head.cycleAborts = x.counters.head.cycleAborts ∧
      (x.addSummary e).counters.head.voids = x.counters.head.voids ∧
      (x.addSummary e).counters.head.sealsGood = x.counters.head.sealsGood ∧
      (x.addSummary e).counters.head.sealsNotGood = x.counters.head.sealsNotGood := by
    intro x e
    simp only [State.addSummary, State.countUnanswered]
    (repeat' split) <;> simp
  have hv : ∀ (x y : State) (e : Summary), x.verdicts = y.verdicts →
      (x.addSummary e).verdicts = (y.addSummary e).verdicts := by
    intro x y e hxy
    simp only [State.addSummary, hxy]
    (repeat' split) <;> simp [State.countUnanswered, hxy]
  simp only [State.postRecord, hn, h]
  cases hj : r.jarPresent <;> cases hg : (r.capVerdict == some .good) <;>
    simp_all [State.countPosting, State.detach]
  all_goals exact hv _ _ _ (by simp)

end Sys2Proof.Machine
end

