-- ==== Sys2Proof/Laws/Link.lean ====
section
/-! SUPPORT. The transmit queue: each operation on it keeps the law of R116 to R118. -/

namespace Sys2Proof.Machine

/-! ### Inserting and removing -/

theorem mem_insertEntry {e x : QueueEntry} {q : List QueueEntry} :
    x ∈ insertEntry e q ↔ x = e ∨ x ∈ q := by
  induction q with
  | nil => simp [insertEntry]
  | cons y q ih =>
    simp only [insertEntry]
    split <;> simp [ih]
    tauto

@[simp] theorem length_insertEntry (e : QueueEntry) (q : List QueueEntry) :
    (insertEntry e q).length = q.length + 1 := by
  induction q with
  | nil => rfl
  | cons y q ih => simp only [insertEntry]; split <;> simp [ih]

theorem sorted_insertEntry {e : QueueEntry} {q : List QueueEntry}
    (h : q.Pairwise fun a b => a.notice.kind ≤ b.notice.kind) :
    (insertEntry e q).Pairwise fun a b => a.notice.kind ≤ b.notice.kind := by
  induction q with
  | nil => simp [insertEntry]
  | cons y q ih =>
    obtain ⟨h1, h2⟩ := List.pairwise_cons.mp h
    simp only [insertEntry]
    split <;> rename_i hk
    · refine List.pairwise_cons.mpr ⟨fun z hz => ?_, h⟩
      rcases List.mem_cons.mp hz with rfl | hz
      · omega
      · have := h1 z hz; omega
    · refine List.pairwise_cons.mpr ⟨fun z hz => ?_, ih h2⟩
      rcases mem_insertEntry.mp hz with rfl | hz
      · omega
      · exact h1 z hz

theorem filter_insertEntry (e : QueueEntry) (q : List QueueEntry) (h : e.inFlight = false) :
    (insertEntry e q).filter (·.inFlight) = q.filter (·.inFlight) := by
  induction q with
  | nil => simp [insertEntry, h]
  | cons y q ih =>
    simp only [insertEntry]
    split
    · simp [h]
    · simp only [List.filter_cons, ih]

theorem removeYoungest_sublist (k : Nat) (q : List QueueEntry) : (removeYoungest k q).Sublist q := by
  have h := (List.eraseP_sublist (p := fun e : QueueEntry => !e.inFlight && e.notice.kind == k)
    (l := q.reverse)).reverse
  simpa [removeYoungest] using h

/-- The largest waiting kind is a waiting entry's, unless it is 0. -/
theorem largestWaitingKind_mem (q : List QueueEntry) (h : 0 < largestWaitingKind q) :
    ∃ e ∈ q, e.inFlight = false ∧ e.notice.kind = largestWaitingKind q := by
  have hg : ∀ (l : List QueueEntry) (k : Nat),
      l.foldl (fun k e => max k e.notice.kind) k = k ∨
      ∃ e ∈ l, e.notice.kind = l.foldl (fun k e => max k e.notice.kind) k := by
    intro l
    induction l with
    | nil => intro k; exact .inl rfl
    | cons x l ih =>
      intro k
      simp only [List.foldl_cons]
      rcases ih (max k x.notice.kind) with h1 | ⟨e, he, h2⟩
      · rw [h1]
        rcases Nat.le_total k x.notice.kind with h3 | h3
        · exact .inr ⟨x, by simp, by omega⟩
        · exact .inl (by omega)
      · exact .inr ⟨e, by simp [he], h2⟩
  rcases hg (waitingOf q) 0 with h1 | ⟨e, he, h2⟩
  · simp only [largestWaitingKind] at h; omega
  · obtain ⟨h3, h4⟩ := List.mem_filter.mp he
    exact ⟨e, h3, by simpa using h4, h2⟩

/-- Removing the youngest entry of a waiting kind shortens the queue by one. -/
theorem length_removeYoungest {k : Nat} {q : List QueueEntry}
    (h : ∃ e ∈ q, e.inFlight = false ∧ e.notice.kind = k) :
    (removeYoungest k q).length = q.length - 1 := by
  obtain ⟨e, he, h1, h2⟩ := h
  simp only [removeYoungest, List.length_reverse]
  rw [List.length_eraseP_of_mem (a := e) (by simpa using he) (by simp [h1, h2])]
  simp

/-! ### The law of the queue -/

/-- A part of a lawful queue is lawful, at the same link state, when an overtaken frame in it stays
remembered. -/
theorem Link.ok.part {l : Link} (h : l.ok) {q : List QueueEntry} (hq : q.Sublist l.queue) {l' : Link}
    (h1 : l'.queue = q) (h2 : l'.state = l.state)
    (h3 : ∀ e ∈ q, e.inFlight = true → l.shutOvertaken = true → l'.shutOvertaken = true) : l'.ok where
  bounded := by rw [h1]; exact hq.length_le.trans h.bounded
  sorted := by rw [h1]; exact h.sorted.sublist hq
  single := by rw [h1]; exact (hq.filter _).length_le.trans h.single
  cancelled := by
    rw [h1]
    rintro ⟨e, he, ho⟩ x hx hs
    obtain ⟨h4, h5⟩ := h.cancelled ⟨e, hq.subset he, ho⟩ x (hq.subset hx) hs
    exact ⟨h4, h3 x hx h4 h5⟩
  quiet := by
    rw [h1, h2]
    intro hs
    have := h.quiet hs
    rw [this] at hq
    exact List.sublist_nil.mp hq

/-- A notice put into a lawful queue with room leaves it lawful when no opposite steam notice waits and one
in flight is remembered as overtaken. -/
theorem Link.ok.insert {l : Link} (h : l.ok) {q : List QueueEntry} (hq : q.Sublist l.queue)
    (hlen : q.length < 8) {n : Notice}
    (hs : n = .steamShut → ∀ e ∈ q, e.notice ≠ .steamOpen)
    (ho : n = .steamOpen → ∀ e ∈ q, e.notice = .steamShut → e.inFlight = true ∧ l.shutOvertaken = true)
    {l' : Link} (h1 : l'.queue = insertEntry ⟨n, false⟩ q) (h2 : l'.state = .active)
    (h3 : ∀ e ∈ q, e.inFlight = true → l.shutOvertaken = true → l'.shutOvertaken = true) : l'.ok where
  bounded := by rw [h1]; simp; omega
  sorted := by rw [h1]; exact sorted_insertEntry (h.sorted.sublist hq)
  single := by
    rw [h1, filter_insertEntry _ _ rfl]
    exact (hq.filter _).length_le.trans h.single
  cancelled := by
    rw [h1]
    rintro ⟨e, he, hopen⟩ x hx hshut
    rcases mem_insertEntry.mp hx with rfl | hx
    · rcases mem_insertEntry.mp he with rfl | he
      · simp_all
      · exact absurd hopen (hs hshut e he)
    · have h4 : x.inFlight = true ∧ l.shutOvertaken = true := by
        rcases mem_insertEntry.mp he with rfl | he
        · exact ho hopen x hx hshut
        · exact h.cancelled ⟨e, hq.subset he, hopen⟩ x (hq.subset hx) hshut
      exact ⟨h4.1, h3 x hx h4.1 h4.2⟩
  quiet := by rw [h2]; intro hn; exact absurd rfl hn

@[simp] theorem Link.withQueue_queue (l : Link) (q : List QueueEntry) : (l.withQueue q).queue = q := rfl
@[simp] theorem Link.withQueue_state (l : Link) (q : List QueueEntry) : (l.withQueue q).state = l.state := rfl
@[simp] theorem Link.withQueue_errors (l : Link) (q : List QueueEntry) :
    (l.withQueue q).errors = l.errors := rfl
@[simp] theorem Link.withQueue_mutePending (l : Link) (q : List QueueEntry) :
    (l.withQueue q).mutePending = l.mutePending := rfl
@[simp] theorem Link.overtake_queue (l : Link) : l.overtake.queue = l.queue := rfl
@[simp] theorem Link.overtake_state (l : Link) : l.overtake.state = l.state := rfl
@[simp] theorem Link.overtake_errors (l : Link) : l.overtake.errors = l.errors := rfl
@[simp] theorem Link.overtake_mutePending (l : Link) : l.overtake.mutePending = l.mutePending := rfl
@[simp] theorem Link.overtake_wire (l : Link) : l.overtake.wire = l.wire := rfl

/-- An overtaken frame stays remembered for as long as an entry is in flight. -/
theorem Link.withQueue_overtaken {l : Link} {q : List QueueEntry} {e : QueueEntry} (he : e ∈ q)
    (hf : e.inFlight = true) (h : l.shutOvertaken = true) : (l.withQueue q).shutOvertaken = true := by
  have ha : q.any (·.inFlight) = true := List.any_eq_true.mpr ⟨e, he, hf⟩
  simp [Link.withQueue, h, ha]

/-- A part of a lawful queue in place of it. -/
theorem Link.ok.withPart {l : Link} (h : l.ok) {q : List QueueEntry} (hq : q.Sublist l.queue) :
    (l.withQueue q).ok :=
  h.part hq rfl rfl fun _ he hf ho => Link.withQueue_overtaken he hf ho

theorem Link.overtake_ok {l : Link} (h : l.ok) : l.overtake.ok :=
  h.part (List.Sublist.refl _) rfl rfl fun _ _ _ ho => by simp [Link.overtake, ho]

/-- A notice that joins an ACTIVE link's lawful queue leaves it lawful (R116, R117). -/
theorem State.joinQueue_ok {s : State} (h : s.link.ok) (ha : s.link.state = .active) {n : Notice}
    (hs : n = .steamShut → ∀ e ∈ s.link.queue, e.notice ≠ .steamOpen)
    (ho : n = .steamOpen → ∀ e ∈ s.link.queue, e.notice = .steamShut →
      e.inFlight = true ∧ s.link.shutOvertaken = true) :
    (s.joinQueue n).link.ok ∧ (s.joinQueue n).link.state = .active := by
  have hpos : 0 < n.kind := by cases n <;> simp [Notice.kind]
  have hin : ∀ q : List QueueEntry, q.Sublist s.link.queue → q.length < 8 →
      (s.link.withQueue (insertEntry ⟨n, false⟩ q)).ok := fun q hq hl =>
    h.insert hq hl (fun hn e he => hs hn e (hq.subset he)) (fun hn e he => ho hn e (hq.subset he)) rfl
      (by simpa using ha)
      (fun e he hf => Link.withQueue_overtaken (mem_insertEntry.mpr (.inr he)) hf)
  have hout : ¬ s.link.queue.length < 8 → n.kind < largestWaitingKind s.link.queue →
      (s.link.withQueue (insertEntry ⟨n, false⟩
        (removeYoungest (largestWaitingKind s.link.queue) s.link.queue))).ok := fun _ _ => by
    have hlen := length_removeYoungest (largestWaitingKind_mem s.link.queue (by omega))
    have hb := h.bounded
    exact hin _ (removeYoungest_sublist _ _) (by omega)
  simp only [State.joinQueue, queueCapacity]
  split_ifs with h1 h2 h3
  · exact ⟨by simpa using hin _ (List.Sublist.refl _) h1, by simpa using ha⟩
  · exact ⟨by simpa using hout h1 h2, by simpa using ha⟩
  · exact ⟨by simpa using hout h1 h2, by simpa using ha⟩
  · exact ⟨by simpa using h, by simpa using ha⟩

/-- Offering a notice keeps the queue lawful and the link state as it was (R114 to R118). -/
theorem State.offer_ok {s : State} (h : s.link.ok) (n : Notice) :
    (s.offer n).link.ok ∧ (s.offer n).link.state = s.link.state := by
  simp only [State.offer]
  split
  · rename_i ha
    rw [ha]
    split
    · split_ifs with h1
      · exact ⟨h.withPart List.filter_sublist, by simpa using ha⟩
      · refine State.joinQueue_ok h ha (fun _ e he hn => h1 ?_) (fun hn => by simp at hn)
        exact List.any_eq_true.mpr ⟨e, he, by simp [hn]⟩
    · refine State.joinQueue_ok ((Link.overtake_ok h).withPart (q := dropWaiting .steamShut s.link.queue)
        List.filter_sublist) (by simpa using ha) (fun hn => by simp at hn) (fun _ e he hn => ?_)
      simp only [State.withLink_link, Link.withQueue_queue] at he
      have hf : e.inFlight = true := by
        simp only [dropWaiting, List.mem_filter] at he
        simpa [hn] using he.2
      refine ⟨hf, Link.withQueue_overtaken he hf ?_⟩
      simp only [Link.overtake, Link.sendingShut, Bool.or_eq_true, List.any_eq_true]
      exact .inr ⟨e, (List.mem_filter.mp he).1, by simp [hf, hn]⟩
    · rename_i n h2 h3
      exact State.joinQueue_ok h ha (fun hn => absurd hn h2) (fun hn => absurd hn h3)
  · exact ⟨by simpa using h, by simp⟩

@[simp] theorem State.enterMute_link (s : State) :
    s.enterMute.link =
      { s.link with
        state := .mute, queue := [], mutePending := false, wire := [], shutOvertaken := false } := by
  have h : ∀ (q : List QueueEntry) (s : State), (q.foldl (fun s _ => s.pageLeft true) s).link = s.link := by
    intro q
    induction q with
    | nil => intro s; rfl
    | cons x q ih => intro s; rw [List.foldl_cons, ih]; simp
  simp [State.enterMute, h]

/-- A link with an empty queue obeys the law. -/
theorem Link.ok.empty {l : Link} (h : l.queue = []) : l.ok := by
  constructor <;> simp [h]

/-- Operations that keep a lawful queue lawful and never make the link ACTIVE. -/
def State.keepsLink (f : State → State) : Prop :=
  ∀ s : State, s.link.ok → (f s).link.ok ∧ ((f s).link.state = .active → s.link.state = .active)

end Sys2Proof.Machine
end

