-- ==== Sys2Proof/Laws/LinkKept.lean ====
section
/-! SUPPORT. Every operation of the blocks keeps the transmit queue lawful and the link state as it was. -/

namespace Sys2Proof.Machine

/-- The queue is lawful and the link is in state `L`. -/
def State.linkAt (L : LinkState) (s : State) : Prop := s.link.ok ∧ s.link.state = L

theorem State.offer_linkAt {L : LinkState} {s : State} (h : s.linkAt L) (n : Notice) :
    (s.offer n).linkAt L :=
  ⟨(State.offer_ok h.1 n).1, (State.offer_ok h.1 n).2.trans h.2⟩

/-- Only the link matters to the law. -/
theorem State.linkAt_of_eq {L : LinkState} {s u : State} (h : s.linkAt L) (hu : u.link = s.link) :
    u.linkAt L := by
  unfold State.linkAt; rw [hu]; exact h

theorem State.shutValve_linkAt {L : LinkState} {s : State} (h : s.linkAt L) :
    (s.shutValve).linkAt L := by
  generalize hu : s.shutValve = u
  simp only [State.shutValve] at hu
  (repeat' split at hu) <;> subst hu <;>
    (repeat' first | exact h | apply State.offer_linkAt | (simp [State.linkAt]; change State.linkAt L _)) <;>
    simpa [State.linkAt] using h

theorem State.shutRequest_linkAt {L : LinkState} {s : State} (h : s.linkAt L) (cause : FlushEnd) :
    (s.shutRequest cause).linkAt L := by
  generalize hu : s.shutRequest cause = u
  simp only [State.shutRequest] at hu
  (repeat' split at hu) <;> subst hu <;>
    (repeat' first
        | exact h
        | apply State.shutValve_linkAt
        | (simp [State.linkAt]; change State.linkAt L _)) <;>
    simpa [State.linkAt] using h

theorem State.enterOpen_linkAt {L : LinkState} {s : State} (h : s.linkAt L) :
    (s.enterOpen).linkAt L := by
  generalize hu : s.enterOpen = u
  simp only [State.enterOpen] at hu
  (repeat' split at hu) <;> subst hu <;>
    (repeat' first | exact h | apply State.offer_linkAt | (simp [State.linkAt]; change State.linkAt L _)) <;>
    simpa [State.linkAt] using h

theorem State.openRequest_linkAt {L : LinkState} {s : State} (h : s.linkAt L) (t : Nat) :
    (s.openRequest t).linkAt L := by
  generalize hu : s.openRequest t = u
  simp only [State.openRequest] at hu
  (repeat' split at hu) <;> subst hu <;>
    (repeat' first
        | exact h
        | apply State.enterOpen_linkAt
        | (simp [State.linkAt]; change State.linkAt L _)) <;>
    simpa [State.linkAt] using h

theorem State.enterFaultShut_linkAt {L : LinkState} {s : State} (h : s.linkAt L) :
    (s.enterFaultShut).linkAt L := by
  generalize hu : s.enterFaultShut = u
  simp only [State.enterFaultShut] at hu
  (repeat' split at hu) <;> subst hu <;>
    (repeat' first | exact h | apply State.offer_linkAt | (simp [State.linkAt]; change State.linkAt L _)) <;>
    simpa [State.linkAt] using h

theorem State.enterFaultOpen_linkAt {L : LinkState} {s : State} (h : s.linkAt L) :
    (s.enterFaultOpen).linkAt L := by
  generalize hu : s.enterFaultOpen = u
  simp only [State.enterFaultOpen] at hu
  (repeat' split at hu) <;> subst hu <;>
    (repeat' first | exact h | apply State.offer_linkAt | (simp [State.linkAt]; change State.linkAt L _)) <;>
    simpa [State.linkAt] using h

theorem State.clearFault_linkAt {L : LinkState} {s : State} (h : s.linkAt L) :
    (s.clearFault).linkAt L := by
  generalize hu : s.clearFault = u
  simp only [State.clearFault] at hu
  (repeat' split at hu) <;> subst hu <;>
    (repeat' first | exact h | apply State.offer_linkAt | (simp [State.linkAt]; change State.linkAt L _)) <;>
    simpa [State.linkAt] using h

theorem State.clearFaultShut_linkAt {L : LinkState} {s : State} (h : s.linkAt L) :
    (s.clearFaultShut).linkAt L := by
  generalize hu : s.clearFaultShut = u
  simp only [State.clearFaultShut] at hu
  (repeat' split at hu) <;> subst hu <;>
    (repeat' first
        | exact h
        | apply State.clearFault_linkAt
        | (simp [State.linkAt]; change State.linkAt L _)) <;>
    simpa [State.linkAt] using h

theorem State.feedbackChanged_linkAt {L : LinkState} {s : State} (h : s.linkAt L) :
    (s.feedbackChanged).linkAt L := by
  generalize hu : s.feedbackChanged = u
  simp only [State.feedbackChanged] at hu
  (repeat' split at hu) <;> subst hu <;>
    (repeat' first
        | exact h
        | apply State.enterOpen_linkAt
        | apply State.clearFault_linkAt
        | (simp [State.linkAt]; change State.linkAt L _)) <;>
    simpa [State.linkAt] using h

theorem State.settleExpired_linkAt {L : LinkState} {s : State} (h : s.linkAt L) :
    (s.settleExpired).linkAt L := by
  generalize hu : s.settleExpired = u
  simp only [State.settleExpired] at hu
  (repeat' split at hu) <;> subst hu <;>
    (repeat' first
        | exact h
        | apply State.enterFaultShut_linkAt
        | apply State.enterFaultOpen_linkAt
        | (simp [State.linkAt]; change State.linkAt L _)) <;>
    simpa [State.linkAt] using h

theorem State.takeTick_linkAt {L : LinkState} {s : State} (h : s.linkAt L) (due : Time) :
    (s.takeTick due).linkAt L := by
  generalize hu : s.takeTick due = u
  simp only [State.takeTick] at hu
  (repeat' split at hu) <;> subst hu <;>
    (repeat' first
        | exact h
        | apply State.shutRequest_linkAt
        | (simp [State.linkAt]; change State.linkAt L _)) <;>
    simpa [State.linkAt] using h

theorem State.recover_linkAt {L : LinkState} {s : State} (h : s.linkAt L) (b : BankId) :
    (s.recover b).linkAt L := by
  generalize hu : s.recover b = u
  simp only [State.recover] at hu
  (repeat' split at hu) <;> subst hu <;>
    (repeat' first | exact h | apply State.offer_linkAt | (simp [State.linkAt]; change State.linkAt L _)) <;>
    simpa [State.linkAt] using h

theorem State.setTrim_linkAt {L : LinkState} {s : State} (h : s.linkAt L) (b : BankId) (trim : Nat) :
    (s.setTrim b trim).linkAt L := by
  generalize hu : s.setTrim b trim = u
  simp only [State.setTrim] at hu
  (repeat' split at hu) <;> subst hu <;>
    (repeat' first
        | exact h
        | apply State.recover_linkAt
        | (simp [State.linkAt]; change State.linkAt L _)) <;>
    simpa [State.linkAt] using h

theorem State.setDegraded_linkAt {L : LinkState} {s : State} (h : s.linkAt L) (b : BankId) :
    (s.setDegraded b).linkAt L := by
  generalize hu : s.setDegraded b = u
  simp only [State.setDegraded] at hu
  (repeat' split at hu) <;> subst hu <;>
    (repeat' first | exact h | apply State.offer_linkAt | (simp [State.linkAt]; change State.linkAt L _)) <;>
    simpa [State.linkAt] using h

theorem State.lowResult_linkAt {L : LinkState} {s : State} (h : s.linkAt L) (b : BankId) :
    (s.lowResult b).linkAt L := by
  generalize hu : s.lowResult b = u
  simp only [State.lowResult] at hu
  (repeat' split at hu) <;> subst hu <;>
    (repeat' first
        | exact h
        | apply State.setDegraded_linkAt
        | (simp [State.linkAt]; change State.linkAt L _)) <;>
    simpa [State.linkAt] using h

theorem State.goodResult_linkAt {L : LinkState} {s : State} (h : s.linkAt L) (b : BankId) :
    (s.goodResult b).linkAt L := by
  generalize hu : s.goodResult b = u
  simp only [State.goodResult] at hu
  (repeat' split at hu) <;> subst hu <;>
    (repeat' first
        | exact h
        | apply State.setTrim_linkAt
        | (simp [State.linkAt]; change State.linkAt L _)) <;>
    simpa [State.linkAt] using h

theorem State.takeAnswer_linkAt {L : LinkState} {s : State} (h : s.linkAt L) (e : Summary)
    (p : VerdictPayload) :
    (s.takeAnswer e p).linkAt L := by
  generalize hu : s.takeAnswer e p = u
  simp only [State.takeAnswer] at hu
  (repeat' split at hu) <;> subst hu <;>
    (repeat' first
        | exact h
        | apply State.lowResult_linkAt
        | apply State.goodResult_linkAt
        | (simp [State.linkAt]; change State.linkAt L _)) <;>
    simpa [State.linkAt] using h

theorem State.matchVerdict_linkAt {L : LinkState} {s : State} (h : s.linkAt L) (p : VerdictPayload) :
    (s.matchVerdict p).linkAt L := by
  generalize hu : s.matchVerdict p = u
  simp only [State.matchVerdict] at hu
  (repeat' split at hu) <;> subst hu <;>
    (repeat' first
        | exact h
        | apply State.takeAnswer_linkAt
        | (simp [State.linkAt]; change State.linkAt L _)) <;>
    simpa [State.linkAt] using h

theorem State.resetTrims_linkAt {L : LinkState} {s : State} (h : s.linkAt L) :
    (s.resetTrims).linkAt L := by
  simp only [State.resetTrims, List.foldl_cons, List.foldl_nil]
  refine State.recover_linkAt (State.recover_linkAt (State.recover_linkAt (State.recover_linkAt ?_ _) _) _) _
  simpa [State.linkAt] using h

theorem State.postRecord_linkAt {L : LinkState} {s : State} (h : s.linkAt L) :
    (s.postRecord).linkAt L := by
  generalize hu : s.postRecord = u
  simp only [State.postRecord] at hu
  (repeat' split at hu) <;> subst hu <;>
    (repeat' first
        | exact h
        | apply State.offer_linkAt
        | apply State.shutRequest_linkAt
        | (simp [State.linkAt]; change State.linkAt L _)) <;>
    simpa [State.linkAt] using h

theorem State.releaseAndPost_linkAt {L : LinkState} {s : State} (h : s.linkAt L) :
    (s.releaseAndPost).linkAt L := by
  generalize hu : s.releaseAndPost = u
  simp only [State.releaseAndPost] at hu
  (repeat' split at hu) <;> subst hu <;>
    (repeat' first
        | exact h
        | apply State.postRecord_linkAt
        | (simp [State.linkAt]; change State.linkAt L _)) <;>
    simpa [State.linkAt] using h

theorem State.abort_linkAt {L : LinkState} {s : State} (h : s.linkAt L) (cause : AbortCause) :
    (s.abort cause).linkAt L := by
  have h1 := State.shutRequest_linkAt h .abort
  simp only [State.abort]
  generalize s.shutRequest .abort = x at h1
  refine State.linkAt_of_eq h1 ?_
  split <;> simp

theorem State.abortWorking_linkAt {L : LinkState} {s : State} (h : s.linkAt L) (cause : AbortCause) :
    (s.abortWorking cause).linkAt L := by
  generalize hu : s.abortWorking cause = u
  simp only [State.abortWorking] at hu
  (repeat' split at hu) <;> subst hu <;>
    (repeat' first | exact h | apply State.abort_linkAt | (simp [State.linkAt]; change State.linkAt L _)) <;>
    simpa [State.linkAt] using h

theorem State.abortIndex_linkAt {L : LinkState} {s : State} (h : s.linkAt L) :
    (s.abortIndex).linkAt L := by
  generalize hu : s.abortIndex = u
  simp only [State.abortIndex] at hu
  (repeat' split at hu) <;> subst hu <;>
    (repeat' first | exact h | apply State.abort_linkAt | (simp [State.linkAt]; change State.linkAt L _)) <;>
    simpa [State.linkAt] using h

theorem State.abortPower_linkAt {L : LinkState} {s : State} (h : s.linkAt L) :
    (s.abortPower).linkAt L := by
  generalize hu : s.abortPower = u
  simp only [State.abortPower] at hu
  (repeat' split at hu) <;> subst hu <;>
    (repeat' first
        | exact h
        | apply State.releaseAndPost_linkAt
        | apply State.abort_linkAt
        | (simp [State.linkAt]; change State.linkAt L _)) <;>
    simpa [State.linkAt] using h

theorem State.takePendingBank_linkAt {L : LinkState} {s : State} (h : s.linkAt L) :
    (s.takePendingBank).linkAt L := by
  generalize hu : s.takePendingBank = u
  simp only [State.takePendingBank] at hu
  (repeat' split at hu) <;> subst hu <;>
    (repeat' first | exact h | apply State.offer_linkAt | (simp [State.linkAt]; change State.linkAt L _)) <;>
    simpa [State.linkAt] using h

theorem State.takePendingLock_linkAt {L : LinkState} {s : State} (h : s.linkAt L) :
    (s.takePendingLock).linkAt L := by
  generalize hu : s.takePendingLock = u
  simp only [State.takePendingLock] at hu
  (repeat' split at hu) <;> subst hu <;>
    (repeat' first
        | exact h
        | apply State.offer_linkAt
        | apply State.clearFaultShut_linkAt
        | (simp [State.linkAt]; change State.linkAt L _)) <;>
    simpa [State.linkAt] using h

theorem State.setSelfLock_linkAt {L : LinkState} {s : State} (h : s.linkAt L) :
    (s.setSelfLock).linkAt L := by
  generalize hu : s.setSelfLock = u
  simp only [State.setSelfLock] at hu
  (repeat' split at hu) <;> subst hu <;>
    (repeat' first | exact h | apply State.offer_linkAt | (simp [State.linkAt]; change State.linkAt L _)) <;>
    simpa [State.linkAt] using h

theorem State.preventStart_linkAt {L : LinkState} {s : State} (h : s.linkAt L) :
    (s.preventStart).linkAt L := by
  generalize hu : s.preventStart = u
  simp only [State.preventStart] at hu
  (repeat' split at hu) <;> subst hu <;>
    (repeat' first
        | exact h
        | apply State.setSelfLock_linkAt
        | (simp [State.linkAt]; change State.linkAt L _)) <;>
    simpa [State.linkAt] using h

theorem State.postLeftOver_linkAt {L : LinkState} {s : State} (h : s.linkAt L) :
    (s.postLeftOver).linkAt L := by
  generalize hu : s.postLeftOver = u
  simp only [State.postLeftOver] at hu
  (repeat' split at hu) <;> subst hu <;>
    (repeat' first
        | exact h
        | apply State.releaseAndPost_linkAt
        | (simp [State.linkAt]; change State.linkAt L _)) <;>
    simpa [State.linkAt] using h

theorem State.atInfeed_linkAt {L : LinkState} {s : State} (h : s.linkAt L) :
    (s.atInfeed).linkAt L := by
  generalize hu : s.atInfeed = u
  simp only [State.atInfeed] at hu
  (repeat' split at hu) <;> subst hu <;>
    (repeat' first
        | exact h
        | apply State.takePendingBank_linkAt
        | apply State.takePendingLock_linkAt
        | apply State.preventStart_linkAt
        | apply State.postLeftOver_linkAt
        | (simp [State.linkAt]; change State.linkAt L _)) <;>
    simpa [State.linkAt] using h

theorem State.atFlushStart_linkAt {L : LinkState} {s : State} (h : s.linkAt L) :
    (s.atFlushStart).linkAt L := by
  generalize hu : s.atFlushStart = u
  simp only [State.atFlushStart] at hu
  (repeat' split at hu) <;> subst hu <;>
    (repeat' first
        | exact h
        | apply State.openRequest_linkAt
        | apply State.abort_linkAt
        | (simp [State.linkAt]; change State.linkAt L _)) <;>
    simpa [State.linkAt] using h

theorem State.atApplyStart_linkAt {L : LinkState} {s : State} (h : s.linkAt L) :
    (s.atApplyStart).linkAt L := by
  generalize hu : s.atApplyStart = u
  simp only [State.atApplyStart] at hu
  (repeat' split at hu) <;> subst hu <;>
    (repeat' first | exact h | apply State.abort_linkAt | (simp [State.linkAt]; change State.linkAt L _)) <;>
    simpa [State.linkAt] using h

theorem State.atFlushEnd_linkAt {L : LinkState} {s : State} (h : s.linkAt L) :
    (s.atFlushEnd).linkAt L := by
  generalize hu : s.atFlushEnd = u
  simp only [State.atFlushEnd] at hu
  (repeat' split at hu) <;> subst hu <;>
    (repeat' first
        | exact h
        | apply State.shutRequest_linkAt
        | (simp [State.linkAt]; change State.linkAt L _)) <;>
    simpa [State.linkAt] using h

theorem State.atApplyEnd_linkAt {L : LinkState} {s : State} (h : s.linkAt L) :
    (s.atApplyEnd).linkAt L := by
  generalize hu : s.atApplyEnd = u
  simp only [State.atApplyEnd] at hu
  (repeat' split at hu) <;> subst hu <;>
    (repeat' first
        | exact h
        | apply State.shutRequest_linkAt
        | apply State.abort_linkAt
        | (simp [State.linkAt]; change State.linkAt L _)) <;>
    simpa [State.linkAt] using h

theorem State.atRelease_linkAt {L : LinkState} {s : State} (h : s.linkAt L) :
    (s.atRelease).linkAt L := by
  generalize hu : s.atRelease = u
  simp only [State.atRelease] at hu
  (repeat' split at hu) <;> subst hu <;>
    (repeat' first
        | exact h
        | apply State.releaseAndPost_linkAt
        | (simp [State.linkAt]; change State.linkAt L _)) <;>
    simpa [State.linkAt] using h

theorem State.handBoundary_linkAt {L : LinkState} {s : State} (h : s.linkAt L) (x : Boundary) :
    (s.handBoundary x).linkAt L := by
  generalize hu : s.handBoundary x = u
  simp only [State.handBoundary] at hu
  (repeat' split at hu) <;> subst hu <;>
    (repeat' first
        | exact h
        | apply State.atInfeed_linkAt
        | apply State.atFlushStart_linkAt
        | apply State.atApplyStart_linkAt
        | apply State.atFlushEnd_linkAt
        | apply State.atApplyEnd_linkAt
        | apply State.atRelease_linkAt
        | (simp [State.linkAt]; change State.linkAt L _)) <;>
    simpa [State.linkAt] using h

theorem State.handBoundaries_linkAt {L : LinkState} {s : State} (h : s.linkAt L) (bs : List Boundary) :
    (s.handBoundaries bs).linkAt L := by
  induction bs generalizing s with
  | nil => exact h
  | cons b bs ih => exact ih (State.handBoundary_linkAt h b)

theorem State.takeReport_linkAt {L : LinkState} {s : State} (h : s.linkAt L) (p : ClosingReport) :
    (s.takeReport p).linkAt L := by
  have h0 : (s.onRecord fun r => r.report p).linkAt L := State.linkAt_of_eq h rfl
  simp only [State.takeReport]
  (repeat' split)
  · exact h0
  · exact State.linkAt_of_eq h0 (by simp)
  · exact State.linkAt_of_eq (State.shutRequest_linkAt h0 .abort) (by simp)
  · exact h

theorem State.unitTakes_linkAt {L : LinkState} {s : State} (h : s.linkAt L) (e : SampleEvent) :
    (s.unitTakes e).1.linkAt L := by
  obtain ⟨c, n, hu⟩ := s.unitTakes_sampled e
  have h0 : ((s.withClosing c).countHead fun _ => n).linkAt L := State.linkAt_of_eq h rfl
  rcases hu with hu | hu <;> rw [hu]
  · exact h0
  · exact State.shutRequest_linkAt h0 .engage

theorem State.takeSample_linkAt {L : LinkState} {s : State} (h : s.linkAt L) (e : SampleEvent) :
    (s.takeSample e).linkAt L := State.takeReport_linkAt (State.unitTakes_linkAt h e) _

/-- A sample event ahead of a command leaves the law to the command. -/
theorem State.afterSample_linkAt {L : LinkState} {s : State} (h : s.linkAt L) (e : Option SampleEvent)
    (f : State → State) (hf : ∀ x : State, x.linkAt L → (f x).linkAt L) : (s.afterSample e f).linkAt L := by
  cases e with
  | none => exact hf _ h
  | some e => exact State.takeReport_linkAt (hf _ (State.unitTakes_linkAt h e)) _

theorem State.pitchLoss_linkAt {L : LinkState} {s : State} (h : s.linkAt L) :
    (s.pitchLoss).linkAt L := by
  generalize hu : s.pitchLoss = u
  simp only [State.pitchLoss] at hu
  (repeat' split at hu) <;> subst hu <;>
    (repeat' first
        | exact h
        | apply State.abortWorking_linkAt
        | (simp [State.linkAt]; change State.linkAt L _)) <;>
    simpa [State.linkAt] using h

theorem State.lockedUpdate_linkAt {L : LinkState} {s : State} (h : s.linkAt L) (m : Int) :
    (s.lockedUpdate m).linkAt L := by
  generalize hu : s.lockedUpdate m = u
  simp only [State.lockedUpdate] at hu
  (repeat' split at hu) <;> subst hu <;>
    (repeat' first
        | exact h
        | apply State.pitchLoss_linkAt
        | (simp [State.linkAt]; change State.linkAt L _)) <;>
    simpa [State.linkAt] using h

theorem State.takePeriod_linkAt {L : LinkState} {s : State} (h : s.linkAt L) (m : Int) :
    (s.takePeriod m).linkAt L := by
  generalize hu : s.takePeriod m = u
  simp only [State.takePeriod] at hu
  (repeat' split at hu) <;> subst hu <;>
    (repeat' first
        | exact h
        | apply State.lockedUpdate_linkAt
        | (simp [State.linkAt]; change State.linkAt L _)) <;>
    simpa [State.linkAt] using h

theorem State.measure_linkAt {L : LinkState} {s : State} (h : s.linkAt L) (t : Time) :
    (s.measure t).linkAt L := by
  generalize hu : s.measure t = u
  simp only [State.measure] at hu
  (repeat' split at hu) <;> subst hu <;>
    (repeat' first
        | exact h
        | apply State.takePeriod_linkAt
        | (simp [State.linkAt]; change State.linkAt L _)) <;>
    simpa [State.linkAt] using h

theorem State.countedPulse_linkAt {L : LinkState} {s : State} (h : s.linkAt L) (t : Time) :
    (s.countedPulse t).linkAt L := by
  generalize hu : s.countedPulse t = u
  simp only [State.countedPulse] at hu
  (repeat' split at hu) <;> subst hu <;>
    (repeat' first
        | exact h
        | apply State.handBoundaries_linkAt
        | apply State.measure_linkAt
        | (simp [State.linkAt]; change State.linkAt L _)) <;>
    simpa [State.linkAt] using h

theorem State.indexMark_linkAt {L : LinkState} {s : State} (h : s.linkAt L) :
    (s.indexMark).linkAt L := by
  generalize hu : s.indexMark = u
  simp only [State.indexMark] at hu
  (repeat' split at hu) <;> subst hu <;>
    (repeat' first
        | exact h
        | apply State.abortIndex_linkAt
        | (simp [State.linkAt]; change State.linkAt L _)) <;>
    simpa [State.linkAt] using h

theorem State.phaseMoves_linkAt {L : LinkState} {s : State} (h : s.linkAt L) :
    (s.phaseMoves).linkAt L := by
  generalize hu : s.phaseMoves = u
  simp only [State.phaseMoves] at hu
  (repeat' split at hu) <;> subst hu <;>
    (repeat' first
        | exact h
        | apply State.handBoundaries_linkAt
        | (simp [State.linkAt]; change State.linkAt L _)) <;>
    simpa [State.linkAt] using h

theorem State.setStop_linkAt {L : LinkState} {s : State} (h : s.linkAt L) (why : StopCause) :
    (s.setStop why).linkAt L := by
  generalize hu : s.setStop why = u
  simp only [State.setStop] at hu
  (repeat' split at hu) <;> subst hu <;>
    (repeat' first | exact h | apply State.offer_linkAt | (simp [State.linkAt]; change State.linkAt L _)) <;>
    simpa [State.linkAt] using h

theorem State.rejectJar_linkAt {L : LinkState} {s : State} (h : s.linkAt L) (x : Position) :
    (s.rejectJar x).linkAt L := by
  generalize hu : s.rejectJar x = u
  simp only [State.rejectJar] at hu
  (repeat' split at hu) <;> subst hu <;>
    (repeat' first
        | exact h
        | apply State.setStop_linkAt
        | (simp [State.linkAt]; change State.linkAt L _)) <;>
    simpa [State.linkAt] using h

theorem State.lengthenRun_linkAt {L : LinkState} {s : State} (h : s.linkAt L) :
    (s.lengthenRun).linkAt L := by
  generalize hu : s.lengthenRun = u
  simp only [State.lengthenRun] at hu
  (repeat' split at hu) <;> subst hu <;>
    (repeat' first | exact h | apply State.offer_linkAt | (simp [State.linkAt]; change State.linkAt L _)) <;>
    simpa [State.linkAt] using h

theorem State.sensorReads_linkAt {L : LinkState} {s : State} (h : s.linkAt L) :
    (s.sensorReads).linkAt L := by
  generalize hu : s.sensorReads = u
  simp only [State.sensorReads] at hu
  (repeat' split at hu) <;> subst hu <;>
    (repeat' first | exact h | apply State.offer_linkAt | (simp [State.linkAt]; change State.linkAt L _)) <;>
    simpa [State.linkAt] using h

theorem State.judge_linkAt {L : LinkState} {s : State} (h : s.linkAt L) (e : Matched) (x : Position)
    (reading : Option SensorReading) :
    (s.judge e x reading).linkAt L := by
  generalize hu : s.judge e x reading = u
  simp only [State.judge] at hu
  (repeat' split at hu) <;> subst hu <;>
    (repeat' first
        | exact h
        | apply State.offer_linkAt
        | apply State.rejectJar_linkAt
        | apply State.lengthenRun_linkAt
        | (simp [State.linkAt]; change State.linkAt L _)) <;>
    simpa [State.linkAt] using h

theorem State.settleSlot_linkAt {L : LinkState} {s : State} (h : s.linkAt L) :
    (s.settleSlot).linkAt L := by
  generalize hu : s.settleSlot = u
  simp only [State.settleSlot] at hu
  (repeat' split at hu) <;> subst hu <;>
    (repeat' first | exact h | apply State.judge_linkAt | (simp [State.linkAt]; change State.linkAt L _)) <;>
    simpa [State.linkAt] using h

theorem State.takeMatch_linkAt {L : LinkState} {s : State} (h : s.linkAt L) (e : Matched) (x : Position) :
    (s.takeMatch e x).linkAt L := by
  generalize hu : s.takeMatch e x = u
  simp only [State.takeMatch] at hu
  (repeat' split at hu) <;> subst hu <;>
    (repeat' first
        | exact h
        | apply State.settleSlot_linkAt
        | (simp [State.linkAt]; change State.linkAt L _)) <;>
    simpa [State.linkAt] using h

theorem State.takeStray_linkAt {L : LinkState} {s : State} (h : s.linkAt L) (x : Position) :
    (s.takeStray x).linkAt L := by
  generalize hu : s.takeStray x = u
  simp only [State.takeStray] at hu
  (repeat' split at hu) <;> subst hu <;>
    (repeat' first
        | exact h
        | apply State.rejectJar_linkAt
        | apply State.settleSlot_linkAt
        | (simp [State.linkAt]; change State.linkAt L _)) <;>
    simpa [State.linkAt] using h

theorem State.takeReading_linkAt {L : LinkState} {s : State} (h : s.linkAt L) (reading : SensorReading) :
    (s.takeReading reading).linkAt L := by
  generalize hu : s.takeReading reading = u
  simp only [State.takeReading] at hu
  (repeat' split at hu) <;> subst hu <;>
    (repeat' first
        | exact h
        | apply State.sensorReads_linkAt
        | apply State.judge_linkAt
        | (simp [State.linkAt]; change State.linkAt L _)) <;>
    simpa [State.linkAt] using h

theorem State.closeWindow_linkAt {L : LinkState} {s : State} (h : s.linkAt L) (x : TransitEntry) :
    (s.closeWindow x).linkAt L := by
  generalize hu : s.closeWindow x = u
  simp only [State.closeWindow] at hu
  (repeat' split at hu) <;> subst hu <;>
    (repeat' first | exact h | apply State.offer_linkAt | (simp [State.linkAt]; change State.linkAt L _)) <;>
    simpa [State.linkAt] using h

theorem State.closeWindows_linkAt {L : LinkState} {s : State} (h : s.linkAt L) :
    (s.closeWindows).linkAt L := by
  have hf : ∀ (q : List TransitEntry) (x : State), x.linkAt L → (q.foldl State.closeWindow x).linkAt L := by
    intro q
    induction q with
    | nil => intro x hx; exact hx
    | cons e q ih => intro x hx; exact ih _ (State.closeWindow_linkAt hx e)
  exact hf _ _ (by simpa [State.linkAt] using h)

theorem State.strayArrives_linkAt {L : LinkState} {s : State} (h : s.linkAt L) :
    (s.strayArrives).linkAt L := by
  generalize hu : s.strayArrives = u
  simp only [State.strayArrives] at hu
  (repeat' split at hu) <;> subst hu <;>
    (repeat' first
        | exact h
        | apply State.takeStray_linkAt
        | (simp [State.linkAt]; change State.linkAt L _)) <;>
    simpa [State.linkAt] using h

theorem State.jarArrives_linkAt {L : LinkState} {s : State} (h : s.linkAt L) :
    (s.jarArrives).linkAt L := by
  generalize hu : s.jarArrives = u
  simp only [State.jarArrives] at hu
  (repeat' split at hu) <;> subst hu <;>
    (repeat' first
        | exact h
        | apply State.takeMatch_linkAt
        | apply State.strayArrives_linkAt
        | (simp [State.linkAt]; change State.linkAt L _)) <;>
    simpa [State.linkAt] using h

theorem State.opTrimReset_linkAt {L : LinkState} {s : State} (h : s.linkAt L) :
    (s.opTrimReset).linkAt L := by
  generalize hu : s.opTrimReset = u
  simp only [State.opTrimReset] at hu
  (repeat' split at hu) <;> subst hu <;>
    (repeat' first
        | exact h
        | apply State.resetTrims_linkAt
        | (simp [State.linkAt]; change State.linkAt L _)) <;>
    simpa [State.linkAt] using h

theorem State.opReleaseStop_linkAt {L : LinkState} {s : State} (h : s.linkAt L) :
    (s.opReleaseStop).linkAt L := by
  generalize hu : s.opReleaseStop = u
  simp only [State.opReleaseStop] at hu
  (repeat' split at hu) <;> subst hu <;>
    (repeat' first | exact h | apply State.offer_linkAt | (simp [State.linkAt]; change State.linkAt L _)) <;>
    simpa [State.linkAt] using h

theorem State.offerPage_linkAt {L : LinkState} {s : State} (h : s.linkAt L) (snap : List Count) (page : Nat) :
    (s.offerPage snap page).linkAt L := by
  generalize hu : s.offerPage snap page = u
  simp only [State.offerPage] at hu
  (repeat' split at hu) <;> subst hu <;>
    (repeat' first | exact h | apply State.offer_linkAt | (simp [State.linkAt]; change State.linkAt L _)) <;>
    simpa [State.linkAt] using h

theorem State.offerPages_linkAt {L : LinkState} {s : State} (h : s.linkAt L) (snap : List Count)
    (pages : List Nat) :
    (s.offerPages snap pages).linkAt L := by
  induction pages generalizing s with
  | nil => exact h
  | cons p q ih => exact ih (State.offerPage_linkAt h snap p)

theorem State.opReport_linkAt {L : LinkState} {s : State} (h : s.linkAt L) (arg : Byte) :
    (s.opReport arg).linkAt L := by
  generalize hu : s.opReport arg = u
  simp only [State.opReport] at hu
  (repeat' split at hu) <;> subst hu <;>
    (repeat' first
        | exact h
        | apply State.offer_linkAt
        | apply State.offerPages_linkAt
        | (simp [State.linkAt]; change State.linkAt L _)) <;>
    simpa [State.linkAt] using h

theorem State.carryOut_linkAt {L : LinkState} {s : State} (h : s.linkAt L) (op arg : Byte) :
    (s.carryOut op arg).linkAt L := by
  generalize hu : s.carryOut op arg = u
  simp only [State.carryOut] at hu
  (repeat' split at hu) <;> subst hu <;>
    (repeat' first
        | exact h
        | apply State.opTrimReset_linkAt
        | apply State.opReleaseStop_linkAt
        | apply State.opReport_linkAt
        | (simp [State.linkAt]; change State.linkAt L _)) <;>
    simpa [State.linkAt] using h

theorem State.testOp_linkAt {L : LinkState} {s : State} (h : s.linkAt L) (op arg : Byte) :
    (s.testOp op arg).linkAt L := by
  generalize hu : s.testOp op arg = u
  simp only [State.testOp] at hu
  (repeat' split at hu) <;> subst hu <;>
    (repeat' first
        | exact h
        | apply State.carryOut_linkAt
        | (simp [State.linkAt]; change State.linkAt L _)) <;>
    simpa [State.linkAt] using h

theorem State.testCommand_linkAt {L : LinkState} {s : State} (h : s.linkAt L) (sender : Address)
    (mask : BitVec 32) (op arg : Byte) :
    (s.testCommand sender mask op arg).linkAt L := by
  generalize hu : s.testCommand sender mask op arg = u
  simp only [State.testCommand] at hu
  (repeat' split at hu) <;> subst hu <;>
    (repeat' first | exact h | apply State.testOp_linkAt | (simp [State.linkAt]; change State.linkAt L _)) <;>
    simpa [State.linkAt] using h

/-! ### The turret and run-line commands -/

theorem State.takePulse_linkAt {L : LinkState} {s : State} (h : s.linkAt L) (t : Time) (jar cap : Bool) :
    (s.takePulse t jar cap).linkAt L := by
  simp only [State.takePulse]
  (repeat' split)
  · exact State.indexMark_linkAt (State.linkAt_of_eq h (by simp))
  · exact State.linkAt_of_eq h (by simp)
  · exact State.countedPulse_linkAt (State.linkAt_of_eq h (by simp)) _
  · exact State.linkAt_of_eq h (by simp)

theorem State.takeLossDeadline_linkAt {L : LinkState} {s : State} (h : s.linkAt L) :
    s.takeLossDeadline.linkAt L := by
  simp only [State.takeLossDeadline]
  (repeat' split) <;> first | exact h | exact State.pitchLoss_linkAt h

theorem State.takePhase_linkAt {L : LinkState} {s : State} (h : s.linkAt L) (cap : Bool) :
    (s.takePhase cap).linkAt L := by
  simp only [State.takePhase]
  split
  · exact State.phaseMoves_linkAt (State.linkAt_of_eq h (by simp))
  · exact State.linkAt_of_eq h (by simp)

theorem State.takeRunFall_linkAt {L : LinkState} {s : State} (h : s.linkAt L) : s.takeRunFall.linkAt L := by
  simp only [State.takeRunFall]
  split
  · exact State.abortWorking_linkAt (State.linkAt_of_eq h (by simp)) _
  · exact State.linkAt_of_eq h (by simp)

/-! ### Whole commands -/

/-- The queue is lawful, and the link is in the state it had before or MUTE. -/
def State.linkAfter (s u : State) : Prop := u.link.ok ∧ (u.link.state = s.link.state ∨ u.link.state = .mute)

theorem State.linkAfter_of {s u : State} (h : u.linkAt s.link.state) : State.linkAfter s u := ⟨h.1, .inl h.2⟩

theorem State.enterMute_linkAfter (s x : State) : State.linkAfter s x.enterMute :=
  ⟨Link.ok.empty (by simp), .inr (by simp)⟩

theorem State.receive_linkAfter {s : State} (x : State) (a : Address) (f : State → State)
    (h : State.linkAfter s x) (hf : x.linkAt x.link.state →
        (f x).linkAt x.link.state) : State.linkAfter s (x.receive a f) := by
  simp only [State.receive, State.takeDuplicate, State.frameOver]
  have h2 : State.linkAfter s (f x) := by
    have := hf ⟨h.1, rfl⟩
    exact ⟨this.1, by rw [this.2]; exact h.2⟩
  (repeat' split) <;> first | exact h | exact h2 | exact State.enterMute_linkAfter _ _

theorem Link.startFirst_ok {l : Link} (h : l.ok) (hn : l.sending = false) (ha : l.state = .active) (w o) :
    ({ l with queue := startFirst l.queue, wire := w, shutOvertaken := o } : Link).ok := by
  have hno : ∀ e ∈ l.queue, e.inFlight = false := by
    intro e he
    simp only [Link.sending, List.any_eq_false] at hn
    simpa using hn e he
  cases hq : l.queue with
  | nil => exact Link.ok.empty (by simp [startFirst])
  | cons e q =>
    have h1 := h.bounded; have h2 := h.sorted; have h3 := h.cancelled
    rw [hq] at h1 h2 h3 hno
    have hf : q.filter (·.inFlight) = [] := List.filter_eq_nil_iff.mpr fun x hx => by simp [hno x
        (by simp [hx])]
    constructor
    · simpa [startFirst] using h1
    · simpa [startFirst] using h2
    · simp [startFirst, hf]
    · simp only [startFirst]
      rintro ⟨x, hx, ho⟩ y hy hs
      exfalso
      have hopen : ∃ z ∈ e :: q, z.notice = .steamOpen := by
        rcases List.mem_cons.mp hx with rfl | hx
        · exact ⟨e, by simp, ho⟩
        · exact ⟨x, by simp [hx], ho⟩
      have hshut : ∃ z ∈ e :: q, z.notice = .steamShut := by
        rcases List.mem_cons.mp hy with rfl | hy
        · exact ⟨e, by simp, hs⟩
        · exact ⟨y, by simp [hy], hs⟩
      obtain ⟨z, hz, hzs⟩ := hshut
      simpa [hno z hz] using (h3 hopen z hz hzs).1
    · intro hn; exact absurd ha hn

theorem Link.groundFrame_ok {l : Link} (h : l.ok) : l.groundFrame.ok := by
  simp only [Link.groundFrame]
  split_ifs with hc
  · exact h.withPart List.filter_sublist
  · constructor
    · simpa using h.bounded
    · rw [Link.withQueue_queue, List.pairwise_map]; exact h.sorted
    · have : (l.queue.map fun e => { e with inFlight := false }).filter (·.inFlight) = [] :=
        List.filter_eq_nil_iff.mpr fun x hx => by
          obtain ⟨e, -, rfl⟩ := List.mem_map.mp hx
          simp
      simp [this]
    · rintro ⟨x, hx, ho⟩ y hy hs
      exfalso
      obtain ⟨x', hx', rfl⟩ := List.mem_map.mp hx
      obtain ⟨y', hy', rfl⟩ := List.mem_map.mp hy
      obtain ⟨hin, hov⟩ := h.cancelled ⟨x', hx', ho⟩ y' hy' hs
      apply hc
      simp only [hov, Link.sendingShut, Bool.true_and, List.any_eq_true]
      exact ⟨y', hy', by simp only at hs; simp [hin, hs]⟩
    · intro hn; simp [h.quiet hn]

@[simp] theorem Link.groundFrame_state (l : Link) : l.groundFrame.state = l.state := rfl

/-- The error count and a due MUTE do not matter to the law. -/
theorem Link.ok.counted {l : Link} (h : l.ok) (e : Nat) (m : Bool) :
    ({ l with errors := e, mutePending := m } : Link).ok := h.part (List.Sublist.refl _) rfl rfl
        fun _ _ _ ho => ho

theorem State.failFrame_linkAfter {s x : State} (h : State.linkAfter s x) (b) :
    State.linkAfter s (x.failFrame b) := by
  have hg := Link.groundFrame_ok h.1
  simp only [State.failFrame]
  split_ifs
  · exact ⟨hg.counted _ _, by simpa using h.2⟩
  · exact State.enterMute_linkAfter _ _
  · exact ⟨hg.counted _ _, by simpa using h.2⟩

theorem State.finishFrame_linkAfter {s x : State} (h : State.linkAfter s x) :
    State.linkAfter s x.finishFrame := by
  have hq : (x.link.withQueue (waitingOf x.link.queue)).ok := h.1.withPart List.filter_sublist
  simp only [State.finishFrame]
  split_ifs <;> exact ⟨by simpa using hq.counted 0 x.link.mutePending, by simpa using h.2⟩

theorem State.startFrame_linkAfter {s x : State} (h : State.linkAfter s x) :
    State.linkAfter s x.startFrame := by
  simp only [State.startFrame]
  split
  · exact h
  · split_ifs with hc
    · simp at hc
      exact ⟨by simpa using Link.startFirst_ok h.1 hc.2 hc.1 _ _, by simpa using h.2⟩
    · exact h

theorem State.frameOver_linkAfter {s x : State} (h : State.linkAfter s x) :
    State.linkAfter s x.frameOver := by
  simp only [State.frameOver]; split
  · exact State.enterMute_linkAfter _ _
  · exact h

theorem State.takeDuplicate_linkAfter {s x : State} (h : State.linkAfter s x) :
    State.linkAfter s x.takeDuplicate := by
  simp only [State.takeDuplicate]; split
  · exact State.enterMute_linkAfter _ _
  · exact h

/-- A command that is no start or power command keeps the queue lawful and leaves the link in its state or
in MUTE. -/
theorem exec_linkAfter {i : Instr} {s u : State} (hi : startsOrSaves i = false) (hs : s.link.ok)
    (h : exec i s = .next u) : State.linkAfter s u := by
  have he : ∀ t, (s.enter t).linkAt s.link.state := fun t => by simpa [State.linkAt] using hs
  have hw : ∀ t, State.linkAfter s (s.enter t) := fun t => State.linkAfter_of (he t)
  cases i <;> simp only [startsOrSaves, reduceCtorEq] at hi <;> simp only [exec] at h
  case turretPulse m j c =>
    simp only [execTurretPulse, Host.Outcome.next.injEq] at h
    subst h
    exact State.linkAfter_of (State.afterSample_linkAt (he m.time) _ _
        fun x hx => State.takePulse_linkAt hx _ _ _)
  case pitchLossDeadline m =>
    simp only [execPitchLossDeadline, Host.Outcome.next.injEq] at h
    subst h
    exact State.linkAfter_of (State.afterSample_linkAt (he m.time) _ _
        fun x hx => State.takeLossDeadline_linkAt hx)
  case phaseBoundary m c =>
    simp only [execPhaseBoundary, Host.Outcome.next.injEq] at h
    subst h
    exact State.linkAfter_of (State.afterSample_linkAt (he m.time) _ _ fun x hx => State.takePhase_linkAt hx _)
  case runLineFall m =>
    simp only [execRunLineFall, Host.Outcome.next.injEq] at h
    subst h
    exact State.linkAfter_of (State.afterSample_linkAt (he m.time) _ _ fun x hx => State.takeRunFall_linkAt hx)
  case frameStart t =>
    simp only [execFrameStart, Host.Outcome.next.injEq] at h
    subst h
    exact State.startFrame_linkAfter (State.frameOver_linkAfter (hw t))
  case contestLost t =>
    simp only [execContestLost, Host.Outcome.next.injEq] at h
    split at h <;> subst h
    · exact ⟨by simpa using Link.groundFrame_ok (hw t).1, .inl (by simp)⟩
    · exact hw t
  case transmitError t b =>
    simp only [execTransmitError, Host.Outcome.next.injEq] at h
    split at h <;> subst h
    · exact State.failFrame_linkAfter (hw t) _
    · exact hw t
  case frameSent t =>
    simp only [execFrameSent, Host.Outcome.next.injEq] at h
    split at h <;> subst h
    · exact State.finishFrame_linkAfter (hw t)
    · exact hw t
  case rxFrameError t b =>
    simp only [execRxFrameError, Host.Outcome.next.injEq] at h
    split at h <;> subst h
    · exact State.frameOver_linkAfter ⟨by simpa using hs, .inl (by simp)⟩
    · exact hw t
  case duplicateAddress t =>
    simp only [execDuplicateAddress, Host.Outcome.next.injEq] at h
    split at h <;> subst h
    · exact State.frameOver_linkAfter (State.takeDuplicate_linkAfter (hw t))
    · exact hw t
  all_goals
    try (
      simp only [execSteamOpenReceived, execSteamShutReceived, execValveFaultReceived, execJoinReceived,
        execVerdictReceived, execSealReceived, execVoidReceived, execSelectBank, execLock, execRestore,
        execTrimReset, execClearCounts, execReport, execReleaseStop, execCommandOpUnknown, State.takeCommand,
        Host.Outcome.next.injEq] at h
      subst h
      refine State.receive_linkAfter _ _ _ (hw _) fun hx => ?_
      (repeat' split) <;> first
        | exact hx
        | exact State.testCommand_linkAt hx _ _ _ _
        | exact State.matchVerdict_linkAt hx _
        | exact State.linkAt_of_eq hx (by simp)
      done)
  all_goals
    simp only [execRunLineRise, execTemperatureReading,
      execValveFeedbackChange, execSettleTimerExpiry, execDoseTick, execRosterExpiry, execDriveSample,
      execSampleDeadline, execConveyorAdvance, execTransitWindowClose, execJarEdge, execPanelReading,
      execReadingWindowClose, execGatePositionReached, execRejectPulseEnd, Host.Outcome.next.injEq] at h
    (repeat' split at h) <;> subst h <;> apply State.linkAfter_of <;>
    repeat' (first
      | with_reducible exact he _
      | with_reducible apply State.feedbackChanged_linkAt
      | with_reducible apply State.settleExpired_linkAt
      | with_reducible apply State.takeTick_linkAt
      | with_reducible apply State.takeSample_linkAt
      | with_reducible apply State.closeWindows_linkAt
      | with_reducible apply State.jarArrives_linkAt
      | with_reducible apply State.takeReading_linkAt
      | with_reducible apply State.settleSlot_linkAt
      | (simpa [State.linkAt] using hs))


end Sys2Proof.Machine
end

