-- ==== Sys2Proof/Laws/Drive.lean ====
section
/-! SUPPORT. Every operation keeps the drive command that belongs to the closing state (R72). -/

namespace Sys2Proof.Machine

/-! ### The closing unit's own operations -/

@[simp] theorem Closing.release_free (c : Closing) : c.release.phase = .free := by
  simp only [Closing.release]
  split
  · rename_i h; simpa using h
  · rfl

theorem Closing.release_ok {c : Closing} (h : c.commandOk) : c.release.commandOk := by
  simp only [Closing.release]
  split
  · exact h
  · rfl

theorem Closing.park_ok (c : Closing) : c.park.commandOk := rfl

theorem Closing.stop_ok {c : Closing} (h : c.commandOk) : c.stop.commandOk := by
  simp only [Closing.stop]
  split
  · exact Closing.park_ok c
  · exact h

theorem Closing.start_ok (c : Closing) (b : Bank) : (c.start b).commandOk := ⟨b.limits, rfl, rfl⟩

/-- Only the closing state, the limits and the command matter to the law. -/
theorem Closing.commandOk_of_eq {c d : Closing} (h : c.commandOk) (h1 : d.phase = c.phase)
    (h2 : d.command = c.command) (h3 : d.limits = c.limits) : d.commandOk := by
  unfold Closing.commandOk at *
  rw [h1, h2, h3]; exact h

theorem Closing.samples_ok {c : Closing} (h : c.commandOk) (d : DriveSample) :
    c.resend.commandOk ∧ (c.takeGood d).commandOk ∧ c.takeBad.commandOk :=
  ⟨Closing.commandOk_of_eq h rfl rfl rfl, Closing.commandOk_of_eq h rfl rfl rfl,
    Closing.commandOk_of_eq h rfl rfl rfl⟩

/-! ### The sequencer and the tracker -/

/-- The closing unit of the state obeys the law of its commands. -/
def State.driveOk (s : State) : Prop := s.closing.commandOk

/-- Only the closing unit matters to the law. -/
theorem State.driveOk_of_eq {s u : State} (h : s.driveOk) (hu : u.closing = s.closing) : u.driveOk := by
  unfold State.driveOk; rw [hu]; exact h

theorem State.onClosing_release_driveOk {s : State} (h : s.driveOk) : (s.onClosing Closing.release).driveOk :=
  Closing.release_ok h

theorem State.onClosing_stop_driveOk {s : State} (h : s.driveOk) : (s.onClosing Closing.stop).driveOk :=
  Closing.stop_ok h

theorem State.onClosing_start_driveOk (s : State) (b : Bank) :
    (s.onClosing fun c => c.start b).driveOk := Closing.start_ok _ _

theorem State.releaseAndPost_driveOk {s : State} (h : s.driveOk) :
    (s.releaseAndPost).driveOk := by
  generalize hu : s.releaseAndPost = u
  simp only [State.releaseAndPost] at hu
  (repeat' split at hu) <;> subst hu <;>
    (repeat' first
        | exact h
        | exact Closing.release_ok h
        | apply State.onClosing_release_driveOk
        | (simp [State.driveOk]
           first
             | exact Closing.release_ok h | exact Closing.stop_ok h | exact Closing.start_ok _ _
             | change State.driveOk _)) <;>
    simpa [State.driveOk] using h

theorem State.abort_driveOk {s : State} (h : s.driveOk) (cause : AbortCause) :
    (s.abort cause).driveOk := by
  have h1 : (s.shutRequest .abort).driveOk := State.driveOk_of_eq h (by simp)
  simp only [State.abort]
  generalize s.shutRequest .abort = x at h1
  split
  · exact State.driveOk_of_eq (State.onClosing_stop_driveOk h1) (by simp)
  · exact State.driveOk_of_eq h1 (by simp)

theorem State.abortWorking_driveOk {s : State} (h : s.driveOk) (cause : AbortCause) :
    (s.abortWorking cause).driveOk := by
  generalize hu : s.abortWorking cause = u
  simp only [State.abortWorking] at hu
  (repeat' split at hu) <;> subst hu <;>
    (repeat' first
        | exact h
        | with_reducible apply State.abort_driveOk
        | (simp [State.driveOk]
           first
             | exact Closing.release_ok h | exact Closing.stop_ok h | exact Closing.start_ok _ _
             | change State.driveOk _)) <;>
    simpa [State.driveOk] using h

theorem State.abortIndex_driveOk {s : State} (h : s.driveOk) :
    (s.abortIndex).driveOk := by
  generalize hu : s.abortIndex = u
  simp only [State.abortIndex] at hu
  (repeat' split at hu) <;> subst hu <;>
    (repeat' first
        | exact h
        | with_reducible apply State.abort_driveOk
        | (simp [State.driveOk]
           first
             | exact Closing.release_ok h | exact Closing.stop_ok h | exact Closing.start_ok _ _
             | change State.driveOk _)) <;>
    simpa [State.driveOk] using h

theorem State.abortPower_driveOk {s : State} (h : s.driveOk) :
    (s.abortPower).driveOk := by
  generalize hu : s.abortPower = u
  simp only [State.abortPower] at hu
  (repeat' split at hu) <;> subst hu <;>
    (repeat' first
        | exact h
        | with_reducible apply State.releaseAndPost_driveOk
        | with_reducible apply State.abort_driveOk
        | (simp [State.driveOk]
           first
             | exact Closing.release_ok h | exact Closing.stop_ok h | exact Closing.start_ok _ _
             | change State.driveOk _)) <;>
    simpa [State.driveOk] using h

theorem State.postLeftOver_driveOk {s : State} (h : s.driveOk) :
    (s.postLeftOver).driveOk := by
  generalize hu : s.postLeftOver = u
  simp only [State.postLeftOver] at hu
  (repeat' split at hu) <;> subst hu <;>
    (repeat' first
        | exact h
        | with_reducible apply State.releaseAndPost_driveOk
        | (simp [State.driveOk]
           first
             | exact Closing.release_ok h | exact Closing.stop_ok h | exact Closing.start_ok _ _
             | change State.driveOk _)) <;>
    simpa [State.driveOk] using h

theorem State.atInfeed_driveOk {s : State} (h : s.driveOk) :
    (s.atInfeed).driveOk := by
  generalize hu : s.atInfeed = u
  simp only [State.atInfeed] at hu
  (repeat' split at hu) <;> subst hu <;>
    (repeat' first
        | exact h
        | with_reducible apply State.postLeftOver_driveOk
        | (simp [State.driveOk]
           first
             | exact Closing.release_ok h | exact Closing.stop_ok h | exact Closing.start_ok _ _
             | change State.driveOk _)) <;>
    simpa [State.driveOk] using h

theorem State.atFlushStart_driveOk {s : State} (h : s.driveOk) :
    (s.atFlushStart).driveOk := by
  generalize hu : s.atFlushStart = u
  simp only [State.atFlushStart] at hu
  (repeat' split at hu) <;> subst hu <;>
    (repeat' first
        | exact h
        | with_reducible apply State.abort_driveOk
        | (simp [State.driveOk]
           first
             | exact Closing.release_ok h | exact Closing.stop_ok h | exact Closing.start_ok _ _
             | change State.driveOk _)) <;>
    simpa [State.driveOk] using h

theorem State.atApplyStart_driveOk {s : State} (h : s.driveOk) :
    (s.atApplyStart).driveOk := by
  generalize hu : s.atApplyStart = u
  simp only [State.atApplyStart] at hu
  (repeat' split at hu) <;> subst hu <;>
    (repeat' first
        | exact h
        | apply State.onClosing_start_driveOk
        | with_reducible apply State.abort_driveOk
        | (simp [State.driveOk]
           first
             | exact Closing.release_ok h | exact Closing.stop_ok h | exact Closing.start_ok _ _
             | change State.driveOk _)) <;>
    simpa [State.driveOk] using h

theorem State.atApplyEnd_driveOk {s : State} (h : s.driveOk) :
    (s.atApplyEnd).driveOk := by
  generalize hu : s.atApplyEnd = u
  simp only [State.atApplyEnd] at hu
  (repeat' split at hu) <;> subst hu <;>
    (repeat' first
        | exact h
        | exact Closing.stop_ok h
        | apply State.onClosing_stop_driveOk
        | with_reducible apply State.abort_driveOk
        | (simp [State.driveOk]
           first
             | exact Closing.release_ok h | exact Closing.stop_ok h | exact Closing.start_ok _ _
             | change State.driveOk _)) <;>
    simpa [State.driveOk] using h

theorem State.atRelease_driveOk {s : State} (h : s.driveOk) :
    (s.atRelease).driveOk := by
  generalize hu : s.atRelease = u
  simp only [State.atRelease] at hu
  (repeat' split at hu) <;> subst hu <;>
    (repeat' first
        | exact h
        | with_reducible apply State.releaseAndPost_driveOk
        | (simp [State.driveOk]
           first
             | exact Closing.release_ok h | exact Closing.stop_ok h | exact Closing.start_ok _ _
             | change State.driveOk _)) <;>
    simpa [State.driveOk] using h

theorem State.handBoundary_driveOk {s : State} (h : s.driveOk) (x : Boundary) :
    (s.handBoundary x).driveOk := by
  generalize hu : s.handBoundary x = u
  simp only [State.handBoundary] at hu
  (repeat' split at hu) <;> subst hu <;>
    (repeat' first
        | exact h
        | with_reducible apply State.atInfeed_driveOk
        | with_reducible apply State.atFlushStart_driveOk
        | with_reducible apply State.atApplyStart_driveOk
        | with_reducible apply State.atApplyEnd_driveOk
        | with_reducible apply State.atRelease_driveOk
        | (simp [State.driveOk]
           first
             | exact Closing.release_ok h | exact Closing.stop_ok h | exact Closing.start_ok _ _
             | change State.driveOk _)) <;>
    simpa [State.driveOk] using h

theorem State.handBoundaries_driveOk {s : State} (h : s.driveOk) (bs : List Boundary) :
    (s.handBoundaries bs).driveOk := by
  induction bs generalizing s with
  | nil => exact h
  | cons b bs ih => exact ih (State.handBoundary_driveOk h b)

theorem State.pitchLoss_driveOk {s : State} (h : s.driveOk) :
    (s.pitchLoss).driveOk := by
  generalize hu : s.pitchLoss = u
  simp only [State.pitchLoss] at hu
  (repeat' split at hu) <;> subst hu <;>
    (repeat' first
        | exact h
        | with_reducible apply State.abortWorking_driveOk
        | (simp [State.driveOk]
           first
             | exact Closing.release_ok h | exact Closing.stop_ok h | exact Closing.start_ok _ _
             | change State.driveOk _)) <;>
    simpa [State.driveOk] using h

theorem State.lockedUpdate_driveOk {s : State} (h : s.driveOk) (m : Int) :
    (s.lockedUpdate m).driveOk := by
  generalize hu : s.lockedUpdate m = u
  simp only [State.lockedUpdate] at hu
  (repeat' split at hu) <;> subst hu <;>
    (repeat' first
        | exact h
        | with_reducible apply State.pitchLoss_driveOk
        | (simp [State.driveOk]
           first
             | exact Closing.release_ok h | exact Closing.stop_ok h | exact Closing.start_ok _ _
             | change State.driveOk _)) <;>
    simpa [State.driveOk] using h

theorem State.takePeriod_driveOk {s : State} (h : s.driveOk) (m : Int) :
    (s.takePeriod m).driveOk := by
  generalize hu : s.takePeriod m = u
  simp only [State.takePeriod] at hu
  (repeat' split at hu) <;> subst hu <;>
    (repeat' first
        | exact h
        | with_reducible apply State.lockedUpdate_driveOk
        | (simp [State.driveOk]
           first
             | exact Closing.release_ok h | exact Closing.stop_ok h | exact Closing.start_ok _ _
             | change State.driveOk _)) <;>
    simpa [State.driveOk] using h

theorem State.measure_driveOk {s : State} (h : s.driveOk) (t : Time) :
    (s.measure t).driveOk := by
  generalize hu : s.measure t = u
  simp only [State.measure] at hu
  (repeat' split at hu) <;> subst hu <;>
    (repeat' first
        | exact h
        | with_reducible apply State.takePeriod_driveOk
        | (simp [State.driveOk]
           first
             | exact Closing.release_ok h | exact Closing.stop_ok h | exact Closing.start_ok _ _
             | change State.driveOk _)) <;>
    simpa [State.driveOk] using h

theorem State.countedPulse_driveOk {s : State} (h : s.driveOk) (t : Time) :
    (s.countedPulse t).driveOk := by
  generalize hu : s.countedPulse t = u
  simp only [State.countedPulse] at hu
  (repeat' split at hu) <;> subst hu <;>
    (repeat' first
        | exact h
        | with_reducible apply State.handBoundaries_driveOk
        | with_reducible apply State.measure_driveOk
        | (simp [State.driveOk]
           first
             | exact Closing.release_ok h | exact Closing.stop_ok h | exact Closing.start_ok _ _
             | change State.driveOk _)) <;>
    simpa [State.driveOk] using h

theorem State.indexMark_driveOk {s : State} (h : s.driveOk) :
    (s.indexMark).driveOk := by
  generalize hu : s.indexMark = u
  simp only [State.indexMark] at hu
  (repeat' split at hu) <;> subst hu <;>
    (repeat' first
        | exact h
        | with_reducible apply State.abortIndex_driveOk
        | (simp [State.driveOk]
           first
             | exact Closing.release_ok h | exact Closing.stop_ok h | exact Closing.start_ok _ _
             | change State.driveOk _)) <;>
    simpa [State.driveOk] using h

theorem State.phaseMoves_driveOk {s : State} (h : s.driveOk) :
    (s.phaseMoves).driveOk := by
  generalize hu : s.phaseMoves = u
  simp only [State.phaseMoves] at hu
  (repeat' split at hu) <;> subst hu <;>
    (repeat' first
        | exact h
        | with_reducible apply State.handBoundaries_driveOk
        | (simp [State.driveOk]
           first
             | exact Closing.release_ok h | exact Closing.stop_ok h | exact Closing.start_ok _ _
             | change State.driveOk _)) <;>
    simpa [State.driveOk] using h

/-! ### Samples -/

/-- The drive law of the part of a test that it returns. -/
theorem Closing.testSeek_ok {c : Closing} (h : c.commandOk) (hp : c.phase = .seek) (t : Torque) :
    (c.testSeek t).1.commandOk := by
  simp only [Closing.testSeek]
  split_ifs
  · simp only [Closing.commandOk, hp] at h
    exact h
  · exact Closing.park_ok c
  · exact h

theorem Closing.seat_ok {c : Closing} (h : c.commandOk) (hp : c.phase = .tighten) : c.seat.commandOk := by
  simp only [Closing.commandOk, hp] at h
  obtain ⟨l, h1, -⟩ := h
  exact ⟨l, h1, by simp [Closing.seat, Closing.inForce, Closing.limit, h1]⟩

theorem Closing.testTighten_ok {c : Closing} (h : c.commandOk) (hp : c.phase = .tighten) (t : Torque) :
    (c.testTighten t).1.commandOk := by
  simp only [Closing.testTighten]
  split_ifs <;>
    first
      | exact Closing.park_ok c
      | exact Closing.seat_ok h hp
      | exact h

theorem Closing.testDwell_ok {c : Closing} (h : c.commandOk) (t : Torque) : (c.testDwell t).1.commandOk := by
  simp only [Closing.testDwell]
  split_ifs
  · exact Closing.park_ok c
  · exact Closing.commandOk_of_eq h rfl rfl rfl
  · exact Closing.commandOk_of_eq h rfl rfl rfl

theorem Closing.handle_ok {c : Closing} (h : c.commandOk) (t : Torque) (a : Half) (b : Bool) :
    (c.handle t a b).1.commandOk := by
  have h1 : ((c.accumulate a).updatePeak t).commandOk := Closing.commandOk_of_eq h rfl rfl rfl
  simp only [Closing.handle, Closing.testPhase]
  generalize (c.accumulate a).updatePeak t = d at h1
  split
  · rename_i hp; exact Closing.testSeek_ok h1 hp t
  · rename_i hp; exact Closing.testTighten_ok h1 hp t
  · exact Closing.testDwell_ok h1 t
  · exact h1

theorem State.unitHandles_driveOk {s : State} (h : s.driveOk) (t : Torque) (a : Half) (b : Bool) :
    (s.unitHandles t a b).1.driveOk := by
  have h1 := Closing.handle_ok h t a b
  simp only [State.unitHandles]
  split
  · exact State.driveOk_of_eq (s := s.withClosing (s.closing.handle t a b).1) h1 (by simp)
  · exact h1

theorem State.unitTakesBad_driveOk {s : State} (h : s.driveOk) : s.unitTakesBad.1.driveOk := by
  have h1 : ((s.onClosing Closing.takeBad).countHead fun c =>
      { c with badSamples := c.badSamples + 1 }).driveOk := Closing.commandOk_of_eq h rfl rfl rfl
  simp only [State.unitTakesBad, State.unitHolds]
  (repeat' split) <;>
    first
      | exact State.unitHandles_driveOk h1 _ _ _
      | exact h1
      | exact Closing.park_ok _

theorem State.unitTakesGood_driveOk {s : State} (h : s.driveOk) (d : DriveSample) :
    (s.unitTakesGood d).1.driveOk := by
  have h1 : (s.onClosing fun c => c.takeGood d).driveOk := Closing.commandOk_of_eq h rfl rfl rfl
  simp only [State.unitTakesGood]
  split
  · exact State.unitHandles_driveOk h1 _ _ _
  · exact h1

theorem State.unitTakes_driveOk {s : State} (h : s.driveOk) (e : SampleEvent) : (s.unitTakes e).1.driveOk := by
  simp only [State.unitTakes]
  (repeat' split)
  · refine State.unitTakesGood_driveOk ?_ _
    simpa [State.driveOk, Closing.commandOk, Closing.resend] using h
  · refine State.unitTakesBad_driveOk ?_
    simpa [State.driveOk, Closing.commandOk, Closing.resend] using h
  · refine State.unitTakesBad_driveOk ?_
    simpa [State.driveOk, Closing.commandOk, Closing.resend] using h
  · exact h
  · exact h

theorem State.takeReport_driveOk {s : State} (h : s.driveOk) (p : ClosingReport) : (s.takeReport p).driveOk :=
  State.driveOk_of_eq h (by simp)

/-- A sample event ahead of a command leaves the law to the command. -/
theorem State.afterSample_driveOk {s : State} (h : s.driveOk) (e : Option SampleEvent) (f : State → State)
    (hf : ∀ x : State, x.driveOk → (f x).driveOk) : (s.afterSample e f).driveOk := by
  cases e with
  | none => exact hf _ h
  | some e => exact State.takeReport_driveOk (hf _ (State.unitTakes_driveOk h e)) _

end Sys2Proof.Machine
end

