-- ==== Sys2Proof/Laws/Frame.lean ====
section
/-! SUPPORT. Bits, bytes and sync bits: what a sender puts in, a receiver takes out (R105, R106). -/

namespace Sys2Proof.Machine

/-! ### Bits and numbers -/

@[simp] theorem bitsOf_length (w x : Nat) : (bitsOf w x).length = w := by
  induction w with
  | zero => rfl
  | succ w ih => simp [bitsOf, ih]

theorem natOfBits_fold (w x a : Nat) :
    (bitsOf w x).foldl (fun a b => 2 * a + b.toNat) a = a * 2 ^ w + x % 2 ^ w := by
  induction w generalizing a with
  | zero => simp [bitsOf, Nat.mod_one]
  | succ w ih =>
    rw [bitsOf, List.foldl_cons, ih, Nat.mod_pow_succ, Nat.testBit_eq_decide_div_mod_eq, Nat.pow_succ]
    generalize 2 ^ w = p
    have h := Nat.mod_two_eq_zero_or_one (x / p)
    rcases h with h | h <;> simp [h] <;> ring

/-- Bits written from a number spell its low bits. -/
@[simp] theorem natOfBits_bitsOf (w x : Nat) : natOfBits (bitsOf w x) = x % 2 ^ w := by
  simp [natOfBits, natOfBits_fold]

@[simp] theorem bitsOfBytes_length (bs : List Byte) : (bitsOfBytes bs).length = 8 * bs.length := by
  induction bs with
  | nil => rfl
  | cons b bs ih => simp [bitsOfBytes] at ih ⊢; omega

/-- Bytes read from the bits of bytes are those bytes. -/
@[simp] theorem bytesOfBits_bitsOfBytes (bs : List Byte) : bytesOfBits bs.length (bitsOfBytes bs) = bs := by
  induction bs with
  | nil => rfl
  | cons b bs ih =>
    have h : bitsOfBytes (b :: bs) = bitsOf 8 b.toNat ++ bitsOfBytes bs := rfl
    rw [List.length_cons, bytesOfBits, h, List.take_left' (by simp), List.drop_left' (by simp), ih,
      natOfBits_bitsOf]
    congr 1
    exact BitVec.eq_of_toNat_eq (by simp only [BitVec.toNat_ofNat]; omega)

/-! ### Sync bits -/

/-- A sender inserts one sync bit for every eight bits. -/
theorem insertSync_length (k : Nat) (bs : List Bool) (hk : k < 8) :
    (insertSync k bs).length = bs.length + (k + bs.length) / 8 := by
  induction bs generalizing k with
  | nil => simp [insertSync]; omega
  | cons b bs ih =>
    simp only [insertSync]
    split
    · rw [List.length_cons, List.length_cons, ih 0 (by omega), List.length_cons]; omega
    · rw [List.length_cons, ih (k + 1) (by omega), List.length_cons]; omega

/-- A receiver takes out the sync bits that a sender has put in. -/
theorem takeBits_insertSync (xs ys tl : List Bool) (k : Nat) (hk : k < 8) :
    takeBits xs.length k (insertSync k (xs ++ ys) ++ tl) =
      some (xs, (k + xs.length) % 8, insertSync ((k + xs.length) % 8) ys ++ tl) := by
  induction xs generalizing k with
  | nil => simp [takeBits, Nat.mod_eq_of_lt hk]
  | cons b xs ih =>
    simp only [List.length_cons, takeBits, List.cons_append, insertSync]
    by_cases h : k = 7
    · subst h
      have := ih 0 (by omega)
      simp only [Nat.zero_add] at this
      have e : (7 + (xs.length + 1)) % 8 = xs.length % 8 := by omega
      simp [this, e]
    · have := ih (k + 1) (by omega)
      have e : k + (xs.length + 1) = k + 1 + xs.length := by omega
      simp [h, this, e]

/-! ### Whole frames -/

/-- A notice's payload has the length its kind requires (section 6.7). -/
theorem Notice.payload_length (n : Notice) : lengthOfKind n.kind = some n.payload.length := by
  cases n with
  | state w => cases w <;> rfl
  | _ => rfl

theorem Notice.kind_lt (n : Notice) : n.kind < 16 := by
  cases n <;> simp [Notice.kind]

theorem lengthOfKind_le {k l : Nat} (h : lengthOfKind k = some l) : l ≤ 17 := by
  unfold lengthOfKind at h
  split at h <;> simp at h <;> omega

end Sys2Proof.Machine
end

