-- ==== Sys2Proof/Laws/Reports.lean ====
section
/-! SUPPORT. What a report offers and clears (R180, R181). -/

namespace Sys2Proof.Machine

/-- A REPORT page goes to the end of the queue (R116). -/
theorem insertEntry_last (e : QueueEntry) (q : List QueueEntry) (h : e.notice.kind = 10) :
    insertEntry e q = q ++ [e] := by
  have hk : ∀ n : Notice, n.kind ≤ 10 := by intro n; cases n <;> simp [Notice.kind]
  induction q with
  | nil => rfl
  | cons x q ih =>
    have := hk x.notice
    simp [insertEntry, show ¬ e.notice.kind < x.notice.kind by omega, ih]

/-- No kind is above a REPORT. -/
theorem largestWaitingKind_le (q : List QueueEntry) : largestWaitingKind q ≤ 10 := by
  have hk : ∀ n : Notice, n.kind ≤ 10 := by intro n; cases n <;> simp [Notice.kind]
  unfold largestWaitingKind
  generalize waitingOf q = l
  suffices ∀ k, k ≤ 10 → l.foldl (fun k e => max k e.notice.kind) k ≤ 10 from this 0 (by omega)
  induction l with
  | nil => simp
  | cons a l ih => intro k hk'; exact ih _ (Nat.max_le.2 ⟨hk', hk _⟩)

/-- One page offered (R180). -/
theorem State.offerPage_eq (s : State) (snap : List Count) (p : Nat) : s.offerPage snap p =
    if s.link.state = .active ∧ s.link.queue.length < 8 then { s with
      link := { s.link with
        queue := s.link.queue ++ [⟨reportPage p snap, false⟩]
        wire := if s.link.queue.any (·.inFlight) then s.link.wire else []
        shutOvertaken := if s.link.queue.any (·.inFlight) then s.link.shutOvertaken else false }
      config := { s.config with pagesInQueue := s.config.pagesInQueue + 1 } }
    else { s with
      counters := { s.counters with link := if s.link.state = .active then { s.counters.link with
          txDropped := s.counters.link.txDropped + 1 } else { s.counters.link with linkDropped :=
          s.counters.link.linkDropped + 1 } }
      config := { s.config with pagesLost := true } } := by
  have hkind : (reportPage p snap).kind = 10 := rfl
  unfold State.offerPage
  by_cases ha : s.link.state = .active
  · have ho : s.offer (reportPage p snap) = s.joinQueue (reportPage p snap) := by
      unfold State.offer; rw [ha]; rfl
    by_cases hl : s.link.queue.length < 8
    · have ht : s.takesPage = true := by simp [State.takesPage, ha, queueCapacity, hl]
      rw [ht, ho, if_pos (c := _ ∧ _) ⟨ha, hl⟩]
      simp only [if_true, State.joinQueue, queueCapacity, hl, insertEntry_last ⟨reportPage p snap,
          false⟩ s.link.queue hkind]
      simp [Link.withQueue, State.withLink, State.withConfig]
    · have ht : s.takesPage = false := by simp only [State.takesPage, queueCapacity, hl, decide_false,
        Bool.and_false]
      have hk : ¬ (reportPage p snap).kind < largestWaitingKind s.link.queue := by
        have := largestWaitingKind_le s.link.queue; rw [hkind]; omega
      rw [ht, ho, if_neg (c := _ ∧ _) (fun h => hl h.2)]
      simp only [Bool.false_eq_true, if_false, State.joinQueue, queueCapacity, hl, hk, ha, if_true]
      rfl
  · have ht : s.takesPage = false := by simp [State.takesPage, ha]
    rw [ht, State.offer_silent ha, if_neg (c := _ ∧ _) (fun h => ha h.1)]
    simp only [Bool.false_eq_true, if_false, ha]
    rfl

/-- Pages offered, whole (R180). -/
theorem State.offerPages_eq (s : State) (snap : List Count) (ps : List Nat) :
    s.offerPages snap ps =
      let taken := if s.link.state = .active then min ps.length (8 - s.link.queue.length) else 0
      let lost := BitVec.ofNat 32 (ps.length - taken)
      let c := s.counters.link
      { s with
        link := { s.link with
          queue := s.link.queue ++ (ps.take taken).map fun p => (⟨reportPage p snap, false⟩ : QueueEntry)
          wire := if taken = 0 ∨ s.link.queue.any (·.inFlight) = true then s.link.wire else []
          shutOvertaken :=
            if taken = 0 ∨ s.link.queue.any (·.inFlight) = true then s.link.shutOvertaken else false }
        counters := { s.counters with
          link := if s.link.state = .active then { c with txDropped := c.txDropped + lost }
            else { c with linkDropped := c.linkDropped + lost } }
        config := { s.config with
          pagesInQueue := s.config.pagesInQueue + taken
          pagesLost := s.config.pagesLost || decide (taken < ps.length) } } := by
  have hadd : ∀ (c : Count) (n : Nat), c + 1 + BitVec.ofNat 32 n = c + BitVec.ofNat 32 (n + 1) := by
    intro c n
    rw [BitVec.ofNat_add, BitVec.add_assoc, BitVec.add_comm (1 : Count)]; rfl
  induction ps generalizing s with
  | nil => simp [State.offerPages]
  | cons p q ih =>
    have hc : s.offerPages snap (p :: q) = (s.offerPage snap p).offerPages snap q := rfl
    rw [hc, ih, State.offerPage_eq]
    by_cases ha : s.link.state = .active
    · by_cases hl : s.link.queue.length < 8
      · obtain ⟨k, hk⟩ : ∃ k, 8 - s.link.queue.length = k + 1 := ⟨7 - s.link.queue.length, by omega⟩
        have hk' : 8 - (s.link.queue.length + 1) = k := by omega
        simp only [ha, hl, and_self, if_true, hk, hk', List.length_append, List.length_cons,
            List.length_nil, Nat.zero_add, Nat.add_min_add_right]
        simp [List.any_append, Nat.add_assoc, Nat.add_comm 1]
        exact ⟨fun _ _ h x hx hf => by simp [h x hx] at hf, fun x hx hf _ => .inr ⟨x, hx, hf⟩⟩
      · have h0 : 8 - s.link.queue.length = 0 := by omega
        simp [ha, hl, h0]
        exact hadd _ _
    · simp [ha]
      exact hadd _ _

/-- A role has twenty live counters. -/
theorem Counters.live_length (c : Counters) (r : Role) : (c.live r).length = 20 := by cases r <;> rfl

/-- The subtraction of a snapshot, counter by counter (R181). -/
theorem Counters.less_live (c : Counters) (r : Role) (snap : List Count) (h : snap.length = 20) :
    (c.less r snap).live r = List.zipWith (fun a b => a - b) (c.live r) snap := by
  match snap, h with
  | [_,_,_,_,_,_,_,_,_,_,_,_,_,_,_,_,_,_,_,_], _ => cases r <;> rfl

end Sys2Proof.Machine
end

