-- ==== Sys2Proof/Laws/Muting.lean ====
section
/-! SUPPORT. MUTE (R114, R181): what entering it does, whole; and no handler of a received notice reads the
MUTE to come or changes the link state. -/

namespace Sys2Proof.Machine

/-! ### Entering MUTE -/

/-- A page lost is one page that leaves the report (R181). -/
theorem State.pageLeft_lost (s : State) :
    s.pageLeft true = { s with config := s.config.pagesLeave 1 } := by
  simp only [State.pageLeft, State.endReport, ConfigUnit.pagesLeave]
  by_cases hr : s.config.reportOutstanding = true
  · by_cases h1 : s.config.pagesInQueue ≤ 1 <;> simp [hr, h1, State.withCounters, State.withConfig]
  · simp [hr]

/-- Pages that leave one after another. -/
theorem ConfigUnit.pagesLeave_succ (c : ConfigUnit) (n : Nat) :
    (c.pagesLeave 1).pagesLeave n = c.pagesLeave (n + 1) := by
  by_cases hr : c.reportOutstanding = false
  · simp only [ConfigUnit.pagesLeave, hr, true_or, if_true]
  by_cases h1 : c.pagesInQueue ≤ 1
  · simp [ConfigUnit.pagesLeave, h1, show c.pagesInQueue ≤ n + 1 by omega, hr]
  by_cases h2 : n = 0
  · subst h2; simp [ConfigUnit.pagesLeave]
  by_cases h3 : c.pagesInQueue ≤ n + 1
  · simp [ConfigUnit.pagesLeave, hr, h1, h2, h3, show c.pagesInQueue - 1 ≤ n by omega]
  · simp [ConfigUnit.pagesLeave, hr, h1, h2, h3, show ¬ c.pagesInQueue - 1 ≤ n by omega]
    omega

/-- Entering MUTE, whole (R114, R181). -/
theorem State.enterMute_muted (s : State) : s.enterMute = s.muted := by
  have fold : ∀ (l : List QueueEntry) (x : State), l.foldl (fun s _ => s.pageLeft true) x =
      { x with config := x.config.pagesLeave l.length } := by
    intro l
    induction l with
    | nil => intro x; simp [ConfigUnit.pagesLeave]
    | cons a l ih =>
      intro x
      rw [List.foldl_cons, ih, State.pageLeft_lost, List.length_cons]
      simp only [ConfigUnit.pagesLeave_succ]
  have page : QueueEntry.isPage = fun e => e.notice.isReport := by
    funext e
    cases hn : e.notice <;> simp [QueueEntry.isPage, hn, Notice.isReport, Notice.kind]
  simp only [State.enterMute, fold, State.muted, State.countLink, State.withCounters, State.withLink]
  rw [List.countP_eq_length_filter, page]

/-! ### What no handler reads -/

/-- The node with the MUTE to come set or cleared. -/
def State.pend (b : Bool) (s : State) : State := { s with link := { s.link with mutePending := b } }

/-- What pending a MUTE leaves: all that the blocks read. -/
@[simp] theorem State.pend_frame (s : State) (b : Bool) :
    (s.pend b).seq = s.seq ∧ (s.pend b).steam = s.steam ∧ (s.pend b).node = s.node ∧
    (s.pend b).config = s.config ∧ (s.pend b).counters = s.counters ∧ (s.pend b).verdicts = s.verdicts ∧
    (s.pend b).transit = s.transit ∧ (s.pend b).reject = s.reject ∧ (s.pend b).timeBase = s.timeBase ∧
    (s.pend b).link.queue = s.link.queue ∧ (s.pend b).link.state = s.link.state ∧
    (s.pend b).headRuns = s.headRuns ∧ (s.pend b).checkRuns = s.checkRuns ∧ (s.pend b).own = s.own ∧
    ∀ x, (s.pend b).bankOf x = s.bankOf x :=
  ⟨rfl, rfl, rfl, rfl, rfl, rfl, rfl, rfl, rfl, rfl, rfl, rfl, rfl, rfl, fun _ => rfl⟩

/-- An update of any other part of the state commutes with pending a MUTE. -/
@[simp] theorem State.pend_with (s : State) (b : Bool) :
    (∀ x, (s.pend b).withSeq x = (s.withSeq x).pend b) ∧
    (∀ x, (s.pend b).withSteam x = (s.withSteam x).pend b) ∧
    (∀ x, (s.pend b).withCounters x = (s.withCounters x).pend b) ∧
    (∀ x, (s.pend b).withConfig x = (s.withConfig x).pend b) ∧
    (∀ x, (s.pend b).withVerdicts x = (s.withVerdicts x).pend b) ∧
    (∀ x, (s.pend b).withTransit x = (s.withTransit x).pend b) ∧
    (∀ x, (s.pend b).withReject x = (s.withReject x).pend b) ∧
    (∀ f, (s.pend b).countHead f = (s.countHead f).pend b) ∧
    (∀ f, (s.pend b).countCheck f = (s.countCheck f).pend b) ∧
    (∀ f, (s.pend b).countLink f = (s.countLink f).pend b) ∧
    (s.pend b).refuseCommand = s.refuseCommand.pend b ∧
    (∀ q, (s.pend b).withLink ((s.pend b).link.withQueue q) = (s.withLink (s.link.withQueue q)).pend b) ∧
    (∀ q, (s.pend b).withLink ((s.pend b).link.overtake.withQueue q) =
      (s.withLink (s.link.overtake.withQueue q)).pend b) :=
  ⟨fun _ => rfl, fun _ => rfl, fun _ => rfl, fun _ => rfl, fun _ => rfl, fun _ => rfl, fun _ => rfl,
   fun _ => rfl, fun _ => rfl, fun _ => rfl, rfl, fun _ => rfl, fun _ => rfl⟩

/-- A choice between two states that commute with pending a MUTE. -/
theorem State.pend_ite {c c' : Prop} {d : Decidable c} {d' : Decidable c'} {x y x' y' : State} {b : Bool}
    (h : c ↔ c') (hx : x' = x.pend b) (hy : y' = y.pend b) :
    @ite _ c d x' y' = (@ite _ c' d' x y).pend b := by
  subst hx hy
  by_cases k : c
  · rw [if_pos k, if_pos (h.1 k)]
  · rw [if_neg k, if_neg (fun q => k (h.2 q))]

@[simp] theorem State.pageLeft_pend (s : State) (b : Bool) (lost : Bool) :
    (s.pend b).pageLeft lost = (s.pageLeft lost).pend b := by
  simp only [State.pageLeft, State.endReport, State.pend_frame, State.pend_with]
  repeat' (first | rfl | apply State.pend_ite Iff.rfl)

@[simp] theorem State.pageLeft_linkState (s : State) (lost : Bool) :
    (s.pageLeft lost).link.state = s.link.state := by
  simp only [State.pageLeft, State.endReport]
  (repeat' split) <;> simp

@[simp] theorem State.joinQueue_pend (s : State) (b : Bool) (n : Notice) :
    (s.pend b).joinQueue n = (s.joinQueue n).pend b := by
  have e : ∀ q, (s.pend b).withLink ((s.pend b).link.withQueue q) =
      (s.withLink (s.link.withQueue q)).pend b := fun _ => rfl
  have e2 : ∀ f q, ((s.pend b).countLink f).withLink (((s.pend b).countLink f).link.withQueue q) =
      ((s.countLink f).withLink ((s.countLink f).link.withQueue q)).pend b := fun _ _ => rfl
  simp only [State.joinQueue, e, e2, State.pageLeft_pend, State.pend_frame]
  repeat' (first | rfl | apply State.pend_ite Iff.rfl)

@[simp] theorem State.joinQueue_linkState (s : State) (n : Notice) :
    (s.joinQueue n).link.state = s.link.state := by
  simp only [State.joinQueue]
  (repeat' split) <;> simp [Link.withQueue]

@[simp] theorem State.offer_pend (s : State) (b : Bool) (n : Notice) :
    (s.pend b).offer n = (s.offer n).pend b := by
  simp only [State.offer, State.pend_frame]
  cases s.link.state <;> cases n <;> simp only [State.joinQueue_pend, State.pend_with]
  exact State.pend_ite Iff.rfl rfl rfl

@[simp] theorem State.offer_linkState (s : State) (n : Notice) :
    (s.offer n).link.state = s.link.state := by
  cases h : s.link.state <;> cases n <;> simp [State.offer, h, Link.withQueue, Link.overtake]
  split <;> simp [h]

@[simp] theorem State.recover_pend (s : State) (b : Bool) (x : BankId) :
    (s.pend b).recover x = (s.recover x).pend b := by
  simp only [State.recover, State.pend_frame, State.pend_with, State.offer_pend]
  repeat' (first | rfl | apply State.pend_ite Iff.rfl)

@[simp] theorem State.recover_linkState (s : State) (x : BankId) :
    (s.recover x).link.state = s.link.state := by
  simp only [State.recover]
  (repeat' split) <;> simp

@[simp] theorem State.setTrim_pend (s : State) (b : Bool) (x : BankId) (n : Nat) :
    (s.pend b).setTrim x n = (s.setTrim x n).pend b := by
  simp only [State.setTrim, State.pend_frame, State.pend_with, State.recover_pend]
  repeat' (first | rfl | apply State.pend_ite Iff.rfl)

@[simp] theorem State.setTrim_linkState (s : State) (x : BankId) (n : Nat) :
    (s.setTrim x n).link.state = s.link.state := by
  simp only [State.setTrim]
  (repeat' split) <;> simp

@[simp] theorem State.setDegraded_pend (s : State) (b : Bool) (x : BankId) :
    (s.pend b).setDegraded x = (s.setDegraded x).pend b := by
  simp only [State.setDegraded, State.pend_frame, State.pend_with, State.offer_pend]
  repeat' (first | rfl | apply State.pend_ite Iff.rfl)

@[simp] theorem State.setDegraded_linkState (s : State) (x : BankId) :
    (s.setDegraded x).link.state = s.link.state := by
  simp only [State.setDegraded]
  (repeat' split) <;> simp

@[simp] theorem State.setGoodRun_pend (s : State) (b : Bool) (x : BankId) (n : Nat) :
    (s.pend b).setGoodRun x n = (s.setGoodRun x n).pend b := by
  simp only [State.setGoodRun, State.pend_frame, State.pend_with]

@[simp] theorem State.setGoodRun_linkState (s : State) (x : BankId) (n : Nat) :
    (s.setGoodRun x n).link.state = s.link.state := by
  simp [State.setGoodRun]

@[simp] theorem State.lowResult_pend (s : State) (b : Bool) (x : BankId) :
    (s.pend b).lowResult x = (s.lowResult x).pend b := by
  simp only [State.lowResult, State.pend_frame, State.pend_with, State.setDegraded_pend]
  rw [State.pend_ite Iff.rfl rfl rfl, State.setGoodRun_pend]

@[simp] theorem State.lowResult_linkState (s : State) (x : BankId) :
    (s.lowResult x).link.state = s.link.state := by
  simp only [State.lowResult]
  split <;> simp

@[simp] theorem State.goodResult_pend (s : State) (b : Bool) (x : BankId) :
    (s.pend b).goodResult x = (s.goodResult x).pend b := by
  simp only [State.goodResult, State.pend_frame, State.setTrim_pend, State.setGoodRun_pend]
  repeat' (first | rfl | apply State.pend_ite Iff.rfl)

@[simp] theorem State.goodResult_linkState (s : State) (x : BankId) :
    (s.goodResult x).link.state = s.link.state := by
  simp only [State.goodResult]
  (repeat' split) <;> simp

@[simp] theorem State.takeAnswer_pend (s : State) (b : Bool) (e : Summary) (p : VerdictPayload) :
    (s.pend b).takeAnswer e p = (s.takeAnswer e p).pend b := by
  simp only [State.takeAnswer, State.pend_frame, State.lowResult_pend, State.goodResult_pend]
  repeat' (first | rfl | apply State.pend_ite Iff.rfl)

@[simp] theorem State.takeAnswer_linkState (s : State) (e : Summary) (p : VerdictPayload) :
    (s.takeAnswer e p).link.state = s.link.state := by
  simp only [State.takeAnswer]
  (repeat' split) <;> simp

@[simp] theorem State.matchVerdict_pend (s : State) (b : Bool) (p : VerdictPayload) :
    (s.pend b).matchVerdict p = (s.matchVerdict p).pend b := by
  simp only [State.matchVerdict, State.pend_frame, State.countUnanswered, State.pend_with]
  split <;> simp only [State.takeAnswer_pend]

@[simp] theorem State.matchVerdict_linkState (s : State) (p : VerdictPayload) :
    (s.matchVerdict p).link.state = s.link.state := by
  simp only [State.matchVerdict, State.countUnanswered]
  split <;> simp

@[simp] theorem State.resetTrims_pend (s : State) (b : Bool) :
    (s.pend b).resetTrims = (s.resetTrims).pend b := by
  simp only [State.resetTrims, State.pend_frame, State.pend_with, List.foldl, State.recover_pend]

@[simp] theorem State.resetTrims_linkState (s : State) :
    (s.resetTrims).link.state = s.link.state := by
  simp [State.resetTrims]

@[simp] theorem State.setRoster_pend (s : State) (b : Bool) (p : Nat) (st : RosterState) :
    (s.pend b).setRoster p st = (s.setRoster p st).pend b := by
  simp only [State.setRoster, State.pend_frame, State.pend_with]

@[simp] theorem State.setRoster_linkState (s : State) (p : Nat) (st : RosterState) :
    (s.setRoster p st).link.state = s.link.state := by
  simp [State.setRoster]

@[simp] theorem State.hearPeer_pend (s : State) (b : Bool) (a : Address) (st : RosterState) :
    (s.pend b).hearPeer a st = (s.hearPeer a st).pend b := by
  simp only [State.hearPeer, State.pend_frame, State.setRoster_pend]
  repeat' (first | rfl | apply State.pend_ite Iff.rfl)

@[simp] theorem State.hearPeer_linkState (s : State) (a : Address) (st : RosterState) :
    (s.hearPeer a st).link.state = s.link.state := by
  simp only [State.hearPeer]
  (repeat' split) <;> simp

@[simp] theorem State.hearJoin_pend (s : State) (b : Bool) (a : Address) :
    (s.pend b).hearJoin a = (s.hearJoin a).pend b := by
  simp only [State.hearJoin, State.forgetAwaited, State.forgetRevolution, State.countUnanswered,
      State.pend_frame, State.pend_with, State.setRoster_pend]
  repeat' (first | rfl | apply State.pend_ite Iff.rfl)

@[simp] theorem State.hearJoin_linkState (s : State) (a : Address) :
    (s.hearJoin a).link.state = s.link.state := by
  simp only [State.hearJoin, State.forgetAwaited, State.forgetRevolution, State.countUnanswered]
  (repeat' split) <;> simp

@[simp] theorem State.appendEntry_pend (s : State) (b : Bool) (e : TransitEntry) :
    (s.pend b).appendEntry e = (s.appendEntry e).pend b := by
  simp only [State.appendEntry, State.pend_frame, State.pend_with]
  repeat' (first | rfl | apply State.pend_ite Iff.rfl)

@[simp] theorem State.appendEntry_linkState (s : State) (e : TransitEntry) :
    (s.appendEntry e).link.state = s.link.state := by
  simp only [State.appendEntry]
  (repeat' split) <;> simp

@[simp] theorem State.appendGap_pend (s : State) (b : Bool) (p : Nat) :
    (s.pend b).appendGap p = (s.appendGap p).pend b := by
  simp only [State.appendGap, State.expectedNow, State.pend_frame, State.pend_with, State.appendEntry_pend]

@[simp] theorem State.appendGap_linkState (s : State) (p : Nat) :
    (s.appendGap p).link.state = s.link.state := by
  simp [State.appendGap, State.expectedNow]

/-- GAP entries one after another. -/
theorem State.appendGap_pendAll (l : List Nat) (s : State) (b : Bool) :
    l.foldl State.appendGap (s.pend b) = (l.foldl State.appendGap s).pend b ∧
    (l.foldl State.appendGap s).link.state = s.link.state := by
  induction l generalizing s with
  | nil => exact ⟨rfl, rfl⟩
  | cons a l ih =>
    rw [List.foldl_cons, State.appendGap_pend]
    exact ⟨(ih _).1, (ih _).2.trans (State.appendGap_linkState s a)⟩

@[simp] theorem State.reckonGaps_pend (s : State) (b : Bool) (p : Nat) :
    (s.pend b).reckonGaps p = (s.reckonGaps p).pend b := by
  simp only [State.reckonGaps, State.appendGaps, State.pend_frame, State.pend_with,
    (State.appendGap_pendAll _ _ b).1]
  split
  · rfl
  · repeat' (first | rfl | apply State.pend_ite Iff.rfl)

@[simp] theorem State.reckonGaps_linkState (s : State) (p : Nat) :
    (s.reckonGaps p).link.state = s.link.state := by
  simp only [State.reckonGaps, State.appendGaps]
  (repeat' split) <;> simp [(State.appendGap_pendAll _ _ false).2]

@[simp] theorem State.takeRecord_pend (s : State) (b : Bool) (p : Nat) (r : Half) (e : TransitEntry) :
    (s.pend b).takeRecord p r e = (s.takeRecord p r e).pend b := by
  simp only [State.takeRecord, State.pend_frame, State.pend_with, State.reckonGaps_pend,
      State.appendEntry_pend]
  repeat' (first | rfl | apply State.pend_ite Iff.rfl)

@[simp] theorem State.takeRecord_linkState (s : State) (p : Nat) (r : Half) (e : TransitEntry) :
    (s.takeRecord p r e).link.state = s.link.state := by
  simp only [State.takeRecord]
  (repeat' split) <;> simp

@[simp] theorem State.takeSeal_pend (s : State) (b : Bool) (a : Address) (x : SealPayload) :
    (s.pend b).takeSeal a x = (s.takeSeal a x).pend b := by
  simp only [State.takeSeal, State.sealEntry, State.expectedNow, State.pend_frame, State.takeRecord_pend]
  repeat' (first | rfl | apply State.pend_ite Iff.rfl)

@[simp] theorem State.takeSeal_linkState (s : State) (a : Address) (x : SealPayload) :
    (s.takeSeal a x).link.state = s.link.state := by
  simp only [State.takeSeal, State.sealEntry, State.expectedNow]
  (repeat' split) <;> simp

@[simp] theorem State.takeVoid_pend (s : State) (b : Bool) (a : Address) (x : VoidPayload) :
    (s.pend b).takeVoid a x = (s.takeVoid a x).pend b := by
  simp only [State.takeVoid, State.expectedNow, State.pend_frame, State.takeRecord_pend]
  repeat' (first | rfl | apply State.pend_ite Iff.rfl)

@[simp] theorem State.takeVoid_linkState (s : State) (a : Address) (x : VoidPayload) :
    (s.takeVoid a x).link.state = s.link.state := by
  simp only [State.takeVoid, State.expectedNow]
  (repeat' split) <;> simp

@[simp] theorem State.offerPage_pend (s : State) (b : Bool) (snap : List Count) (p : Nat) :
    (s.pend b).offerPage snap p = (s.offerPage snap p).pend b := by
  simp only [State.offerPage, State.takesPage, State.pend_frame, State.pend_with, State.offer_pend]
  repeat' (first | rfl | apply State.pend_ite Iff.rfl)

@[simp] theorem State.offerPage_linkState (s : State) (snap : List Count) (p : Nat) :
    (s.offerPage snap p).link.state = s.link.state := by
  by_cases h : s.takesPage = true <;> simp [State.offerPage, h]

/-- Pages offered one after another. -/
theorem State.offerPages_pendAll (snap : List Count) (l : List Nat) (s : State) (b : Bool) :
    (s.pend b).offerPages snap l = (s.offerPages snap l).pend b ∧
    (s.offerPages snap l).link.state = s.link.state := by
  simp only [State.offerPages]
  induction l generalizing s with
  | nil => exact ⟨rfl, rfl⟩
  | cons a l ih =>
    simp only [List.foldl_cons, State.offerPage_pend]
    exact ⟨(ih _).1, (ih _).2.trans (State.offerPage_linkState s snap a)⟩

@[simp] theorem State.opReport_pend (s : State) (b : Bool) (arg : Byte) :
    (s.pend b).opReport arg = (s.opReport arg).pend b := by
  simp only [State.opReport, State.beginReport, State.reportSnapshot, State.endEmptyReport,
    State.pend_frame, State.pend_with, (State.offerPages_pendAll _ _ _ b).1]
  repeat' (first | rfl | apply State.pend_ite Iff.rfl)

@[simp] theorem State.opReport_linkState (s : State) (arg : Byte) :
    (s.opReport arg).link.state = s.link.state := by
  have empty : ∀ x : State, x.endEmptyReport.link.state = x.link.state := by
    intro x
    simp only [State.endEmptyReport]
    split <;> simp
  simp only [State.opReport]
  split
  · simp
  · rw [empty, (State.offerPages_pendAll _ _ _ false).2]
    simp [State.beginReport]

@[simp] theorem State.opSelectBank_pend (s : State) (b : Bool) (arg : Byte) :
    (s.pend b).opSelectBank arg = (s.opSelectBank arg).pend b := by
  simp only [State.opSelectBank, State.pend_frame, State.pend_with]
  repeat' (first | rfl | apply State.pend_ite Iff.rfl)

@[simp] theorem State.opSelectBank_linkState (s : State) (arg : Byte) :
    (s.opSelectBank arg).link.state = s.link.state := by
  simp only [State.opSelectBank]
  (repeat' split) <;> simp

@[simp] theorem State.opLockAction_pend (s : State) (b : Bool) (a : LockAction) :
    (s.pend b).opLockAction a = (s.opLockAction a).pend b := by
  simp only [State.opLockAction, State.pend_frame, State.pend_with]
  repeat' (first | rfl | apply State.pend_ite Iff.rfl)

@[simp] theorem State.opLockAction_linkState (s : State) (a : LockAction) :
    (s.opLockAction a).link.state = s.link.state := by
  simp only [State.opLockAction]
  (repeat' split) <;> simp

@[simp] theorem State.opTrimReset_pend (s : State) (b : Bool) :
    (s.pend b).opTrimReset = (s.opTrimReset).pend b := by
  simp only [State.opTrimReset, State.pend_frame, State.pend_with, State.resetTrims_pend]
  repeat' (first | rfl | apply State.pend_ite Iff.rfl)

@[simp] theorem State.opTrimReset_linkState (s : State) :
    (s.opTrimReset).link.state = s.link.state := by
  simp only [State.opTrimReset]
  (repeat' split) <;> simp

@[simp] theorem State.opClearCounts_pend (s : State) (b : Bool) :
    (s.pend b).opClearCounts = (s.opClearCounts).pend b := by
  simp only [State.opClearCounts, State.pend_frame, State.pend_with]
  repeat' (first | rfl | apply State.pend_ite Iff.rfl)

@[simp] theorem State.opClearCounts_linkState (s : State) :
    (s.opClearCounts).link.state = s.link.state := by
  simp only [State.opClearCounts]
  (repeat' split) <;> simp

@[simp] theorem State.opReleaseStop_pend (s : State) (b : Bool) :
    (s.pend b).opReleaseStop = (s.opReleaseStop).pend b := by
  simp only [State.opReleaseStop, State.pend_frame, State.pend_with, State.offer_pend]
  repeat' (first | rfl | apply State.pend_ite Iff.rfl)

@[simp] theorem State.opReleaseStop_linkState (s : State) :
    (s.opReleaseStop).link.state = s.link.state := by
  simp only [State.opReleaseStop]
  (repeat' split) <;> simp

@[simp] theorem State.carryOut_pend (s : State) (b : Bool) (op arg : Byte) :
    (s.pend b).carryOut op arg = (s.carryOut op arg).pend b := by
  simp only [State.carryOut, State.opSelectBank_pend, State.opLockAction_pend, State.opTrimReset_pend,
    State.opClearCounts_pend, State.opReleaseStop_pend, State.opReport_pend, State.pend_with]
  split <;> rfl

@[simp] theorem State.carryOut_linkState (s : State) (op arg : Byte) :
    (s.carryOut op arg).link.state = s.link.state := by
  simp only [State.carryOut]
  split <;> simp

@[simp] theorem State.testOp_pend (s : State) (b : Bool) (op arg : Byte) :
    (s.pend b).testOp op arg = (s.testOp op arg).pend b := by
  simp only [State.testOp, State.carryOut_pend, State.pend_with]
  exact State.pend_ite Iff.rfl rfl rfl

@[simp] theorem State.testOp_linkState (s : State) (op arg : Byte) :
    (s.testOp op arg).link.state = s.link.state := by
  simp only [State.testOp]
  split <;> simp

@[simp] theorem State.testCommand_pend (s : State) (b : Bool) (a : Address) (mask : BitVec 32) (op arg : Byte) :
    (s.pend b).testCommand a mask op arg = (s.testCommand a mask op arg).pend b := by
  simp only [State.testCommand, State.testOp_pend, State.pend_frame, State.pend_with]
  split
  · rfl
  split
  · rfl
  split
  · rfl
  · split <;> rfl
  · rfl
  · rfl

@[simp] theorem State.testCommand_linkState (s : State) (a : Address) (mask : BitVec 32) (op arg : Byte) :
    (s.testCommand a mask op arg).link.state = s.link.state := by
  simp only [State.testCommand]
  (repeat' split) <;> simp

/-- The moment of a command does not depend on the MUTE to come. -/
theorem State.enter_pend (s : State) (b : Bool) (t : Time) : (s.pend b).enter t = (s.enter t).pend b := by
  simp only [State.enter]
  repeat' (first | rfl | apply State.pend_ite Iff.rfl)

/-- A frame received while a MUTE is to come is taken as ever, and the MUTE follows (log 15). -/
theorem State.receive_pending (s : State) (t : Time) (a : Address) (f : State → State)
    (hp : s.link.mutePending = true) (ha : s.link.state = .active)
    (hf : ∀ x b, f (State.pend b x) = (f x).pend b) (hs : ∀ x, (f x).link.state = x.link.state) :
    let v := (s.unmuted.enter t).receive a f
    (v.link.state = .active → (s.enter t).receive a f = v.muted) ∧
    (v.link.state ≠ .active → (s.enter t).receive a f = v) := by
  obtain ⟨x, hx⟩ : ∃ x, x = s.unmuted.enter t := ⟨_, rfl⟩
  have hpend : ∀ x : State, (f x).link.mutePending = x.link.mutePending := fun x => by
    have := hf x x.link.mutePending
    rw [show x.pend x.link.mutePending = x from rfl] at this
    rw [this]
    rfl
  have es : s.enter t = x.pend true := by
    have : s = s.unmuted.pend true := by simp only [State.pend, State.unmuted]; rw [← hp]
    rw [hx, ← State.enter_pend, ← this]
  have hxa : x.link.state = .active ∧ x.link.mutePending = false := by
    rw [hx]; simp [State.unmuted, ha]
  have hr : x.link.receives = true ∧ (x.pend true).link.receives = true := by simp [Link.receives, hxa]
  rw [es, ← hx]
  simp only [State.receive, hr, if_true, State.pend_frame]
  by_cases hd : (a == x.node.address) = true
  · have hm : (x.pend true).enterMute = x.enterMute := by
      simp only [State.enterMute_muted]; rfl
    have hz : x.enterMute.link.mutePending = false ∧ x.enterMute.link.state = .mute := by
      rw [State.enterMute_muted]; exact ⟨rfl, rfl⟩
    simp only [hd, if_true, State.takeDuplicate, State.pend_frame, hxa, beq_self_eq_true, hm,
      State.frameOver, hz, Bool.false_eq_true, if_false]
    simp
  · have h1 : (f x).frameOver = f x := by simp [State.frameOver, hpend, hxa]
    have h2 : (f (x.pend true)).frameOver = (f x).muted := by
      rw [hf]
      simp only [State.frameOver, show ((f x).pend true).link.mutePending = true from rfl, if_true,
        State.enterMute_muted]
      rfl
    simp only [hd, Bool.false_eq_true, if_false, h1, h2, hs, hxa]
    simp

end Sys2Proof.Machine
end

