-- ==== Sys2Proof/Laws/Received.lean ====
section
/-! SUPPORT. What a receiver reads from a payload is what its sender put in (section 6.7, R120). -/

namespace Sys2Proof.Machine

/-- The number that bits written one after the other spell. -/
theorem toNat_append_add {v w : Nat} (x : BitVec v) (y : BitVec w) :
    (x ++ y).toNat = x.toNat * 2 ^ w + y.toNat := by
  rw [BitVec.toNat_append, ← Nat.shiftLeft_add_eq_or_of_lt y.isLt, Nat.shiftLeft_eq]

/-- A 16-bit field is read back from its two bytes, wherever they stand. -/
theorem half_ofBytes (x : Half) :
    BitVec.ofNat 16 (natOfBytes [BitVec.ofNat 8 (x.toNat / 256), BitVec.ofNat 8 x.toNat]) = x :=
  BitVec.eq_of_toNat_eq (by
    simp only [natOfBytes, List.foldl_cons, List.foldl_nil, BitVec.toNat_ofNat]; omega)

/-- A SEAL's payload is read back from any byte 2 that holds its bank and its cap verdict. -/
theorem readSeal_set (p : SealPayload) (b : Byte) (hb : b.toNat / 64 = p.bank.toNat)
    (hv : b.toNat % 16 = p.capVerdict.toNat) : readSeal ((sealBytes p).set 2 b) = p := by
  have h1 : BitVec.ofNat 2 (b.toNat / 64) = p.bank := by rw [hb]; simp
  have h2 : BitVec.ofNat 4 b.toNat = p.capVerdict := BitVec.eq_of_toNat_eq (by simpa using hv)
  simp [-BitVec.ofNat_toNat, readSeal, payloadHalf, halfField, byteField, sealBytes, bytesOfHalf, half_ofBytes,
    h1, h2]

/-- The byte a sender writes of bank and cap verdict, its spare bits 0, holds them. -/
theorem sealBytes_set (p : SealPayload) :
    (sealBytes p).set 2 (BitVec.ofNat 8 (p.bank.toNat * 64 + p.capVerdict.toNat)) = sealBytes p := rfl

theorem readSeal_sealBytes (p : SealPayload) : readSeal (sealBytes p) = p := by
  have := readSeal_set p (BitVec.ofNat 8 (p.bank.toNat * 64 + p.capVerdict.toNat))
    (by simp only [BitVec.toNat_ofNat]; omega) (by simp only [BitVec.toNat_ofNat]; omega)
  rwa [sealBytes_set] at this

theorem readVoid_bytes (p : VoidPayload) : readVoid (Notice.void p).payload = p := by
  simp [-BitVec.ofNat_toNat, readVoid, payloadHalf, halfField, Notice.payload, bytesOfHalf, half_ofBytes]

theorem readVerdict_bytes (p : VerdictPayload) : readVerdict (Notice.verdict p).payload = p := by
  simp [-BitVec.ofNat_toNat, readVerdict, payloadHalf, halfField, Notice.payload, bytesOfHalf, half_ofBytes]

theorem readJoin_bytes (p : JoinPayload) : readJoin (Notice.join p).payload = p := by
  simp [-BitVec.ofNat_toNat, readJoin, payloadHalf, halfField, Notice.payload, bytesOfHalf, half_ofBytes]

/-- A COMMAND's mask is read back from its four bytes. -/
theorem countField_commandPayload (op : Byte) (mask : BitVec 32) (arg : Byte) :
    countField (commandPayload op mask arg) 1 = mask := by
  refine BitVec.eq_of_toNat_eq ?_
  simp only [countField, commandPayload, bytesOfCount, List.cons_append, List.nil_append,
    List.drop_succ_cons, List.drop_zero, List.take_succ_cons, List.take_zero, natOfBytes, List.foldl_cons,
    List.foldl_nil, BitVec.toNat_ofNat]
  omega

end Sys2Proof.Machine
end

