-- ==== Sys2Proof/Laws/Started.lean ====
section
/-! SUPPORT. What the start sequence leaves while it waits for the crystal. -/

namespace Sys2Proof.Machine

/-- Step 2 reads the straps and touches nothing else but the link (R182). -/
theorem State.readStraps_parts (s : State) (inp : StartInputs) : (s.readStraps inp).memory = s.memory ∧
    (s.readStraps inp).config = s.config ∧
    (s.readStraps inp).node = { s.node with
      role := if inp.roleHigh then .check else .head, address := inp.addr
      strapsBad := isController inp.addr || (inp.roleHigh && inp.addr != 24#5) } ∧
    (s.readStraps inp).seq = s.seq ∧ (s.readStraps inp).verdicts = s.verdicts := by
  simp only [State.readStraps]
  cases inp.roleHigh <;> split <;> simp_all

/-- Without the crystal and without the warning, the start sequence leaves the node as `State.Started` says
(R183, R184). -/
theorem State.startSequence_started {s : State} (inp : StartInputs) (c : ResetCause)
    (hc : inp.crystalReady = false) (hp : s.pins.pwarn = false) :
    (s.startSequence c inp).Started s.memory c inp ∧ (s.startSequence c inp).pins = s.pins := by
  have hb := State.afterStepFive_blocks s c inp
  rw [State.startSequence_cases]
  simp only [hp, hc, Bool.false_eq_true, if_false]
  have hcfg : ∀ x : State, (x.takePersistent).config.header = x.config.header ∧
      (x.takePersistent).config.banks = x.config.banks
     ∧ (x.takePersistent).config.usable = x.config.usable ∧
         x.takePersistent.config.signature = x.config.signature
     ∧ x.takePersistent.config.reportOutstanding = x.config.reportOutstanding ∧
         x.takePersistent.config.snapshot = x.config.snapshot
     ∧ x.takePersistent.config.pagesInQueue = x.config.pagesInQueue ∧
         x.takePersistent.node.configBad = x.node.configBad
     ∧ x.takePersistent.node.strapsBad = x.node.strapsBad ∧
         x.takePersistent.node.onCrystal = x.node.onCrystal := by
    intro x; simp only [State.takePersistent]; (repeat' split) <;> simp
  have hsv : ∀ x : State,
      x.takePersistent.seq = { x.seq with activeBank := x.takePersistent.seq.activeBank } ∧
      x.takePersistent.verdicts = { x.verdicts with trims := x.takePersistent.verdicts.trims } := by
    intro x; simp only [State.takePersistent]; (repeat' split) <;> simp
  obtain ⟨r0, hr0⟩ : ∃ r,
      r = (s.afterReset c).withMemory (Memory.writeAll (s.afterReset c).memory (inp.memoryChanges.map
          fun c => (c.1.toNat, c.2))) := ⟨_, rfl⟩
  have hr := State.readStraps_parts r0 inp
  have hbs : (r0.readStraps inp).configBytes inp = startBytes s.memory inp := by
    simp only [State.configBytes, startBytes, startMemory]; rw [hr.1, hr0]; rfl
  have hcon : r0.config = ConfigUnit.reset := by rw [hr0]; rfl
  have hnod : r0.node = { Node.reset with cause := c } := by rw [hr0]; rfl
  have hseq : r0.seq = Sequencer.reset := by rw [hr0]; rfl
  have hver : r0.verdicts = VerdictList.reset := by rw [hr0]; rfl
  have h5 : s.afterStepFive c inp = ((r0.readStraps inp).readConfig inp).takePersistent := by rw [hr0]; rfl
  generalize hw : r0.readStraps inp = w at *
  have hrc : w.readConfig inp = _ := rfl
  conv at hrc => rhs; unfold State.readConfig
  simp only [hbs] at hrc
  generalize hbb : startBytes s.memory inp = bs at hrc
  refine ⟨⟨by simp [hb], ?_, by simp [hb], by simp [hb], ?_, ?_, by simp [hb], ?_, ?_, ?_, ?_, ?_, ?_, ?_⟩,
      by simp [hb]⟩
  · refine ⟨by simp [hb], by simp, ?_⟩
    simp [h5, hcfg, hrc, hr, hnod, Node.reset]
  · simp only [State.withNode_seq]
    have h := (hsv (w.readConfig inp)).1
    have e : (w.readConfig inp).seq = Sequencer.reset := by rw [hrc]; simp [hr, hseq]
    rw [e] at h; rw [h5]; exact h
  · simp only [State.withNode_verdicts]
    have h := (hsv (w.readConfig inp)).2
    have e : (w.readConfig inp).verdicts = VerdictList.reset := by rw [hrc]; simp [hr, hver]
    rw [e] at h; rw [h5]; exact h
  · rw [hbb]; simp only [State.withNode_config, h5, hcfg, hrc, State.withConfig_config]
  · intro b
    rw [hbb]
    simp only [State.withNode_config, h5, hcfg, hrc, State.withConfig_config]
    rcases b with ⟨⟨b, hb⟩⟩
    have : b = 0 ∨ b = 1 ∨ b = 2 ∨ b = 3 := by omega
    rcases this with rfl | rfl | rfl | rfl <;> rfl
  · intro b
    simp only [State.withNode_config, h5, hcfg, hrc, State.withConfig_config]
    rcases b with ⟨⟨b, hb⟩⟩
    have : b = 0 ∨ b = 1 ∨ b = 2 ∨ b = 3 := by omega
    rcases this with rfl | rfl | rfl | rfl <;> rfl
  · rw [hbb]; simp [h5, hcfg, hrc]
  · simp [h5, hcfg, hrc, hr, hcon, ConfigUnit.reset]
  · simp [h5, hcfg, hrc]
  · simp only [State.withNode_node, State.withNode_config, h5, hcfg, hrc, State.withConfig_config,
      State.withConfig_node, hr]
    cases inp.roleHigh <;> simp

end Sys2Proof.Machine
end

