-- ==== Sys2Proof/Laws/Station.lean ====
section
/-! SUPPORT. What the check station does whole, and what keeps its sizes (Chapters 8 and 9). -/

namespace Sys2Proof.Machine

/-- Entries appended one after another, those beyond 512 dropped and counted (R144). -/
def State.extended (s : State) (gs : List TransitEntry) : State :=
  { s with
    transit := { s.transit with entries := s.transit.entries ++ gs.take (512 - s.transit.entries.length) }
    counters := { s.counters with check := { s.counters.check with
      transitOverflows := s.counters.check.transitOverflows +
        BitVec.ofNat 32 (gs.length - (512 - s.transit.entries.length)) } } }

/-- One entry appended. -/
theorem State.appendEntry_extended (s : State) (e : TransitEntry) :
    s.appendEntry e = State.extended s [e] := by
  unfold State.appendEntry State.extended transitCapacity
  split
  · rename_i h
    obtain ⟨k, hk⟩ : ∃ k, 512 - s.transit.entries.length = k + 1 := ⟨511 - s.transit.entries.length, by omega⟩
    rw [hk]
    simp [State.withTransit]
  · rename_i h
    have : 512 - s.transit.entries.length = 0 := by omega
    rw [this]
    simp [State.countCheck, State.withCounters]

/-- Entries appended in two lots. -/
theorem State.extended_append (s : State) (a b : List TransitEntry) :
    State.extended (State.extended s a) b = State.extended s (a ++ b) := by
  have key : 512 - (s.transit.entries.length + min (512 - s.transit.entries.length) a.length) =
      (512 - s.transit.entries.length) - a.length := by omega
  simp only [State.extended, List.length_append, List.length_take, key, List.append_assoc, List.take_append,
      BitVec.add_assoc, ← BitVec.ofNat_add]
  have k2 : a.length - (512 - s.transit.entries.length) +
      (b.length - (512 - s.transit.entries.length - a.length)) =
      a.length + b.length - (512 - s.transit.entries.length) := by omega
  rw [k2]

/-- The state with this count of GAPs inserted. -/
def State.gapsCounted (s : State) (x : Count) : State :=
  { s with counters := { s.counters with check := { s.counters.check with gapsInserted := x } } }

/-- Counting GAPs and appending entries do not meet. -/
theorem State.extended_gapsCounted (s : State) (x : Count) (gs : List TransitEntry) :
    State.extended (s.gapsCounted x) gs = (State.extended s gs).gapsCounted x := rfl

/-- One GAP appended and counted. -/
theorem State.appendGap_eq (s : State) (p : Nat) : s.appendGap p =
    (State.extended s [.gap p s.expectedNow]).gapsCounted (s.counters.check.gapsInserted + 1) := by
  simp only [State.appendGap, State.appendEntry_extended]; rfl

/-- The GAP entries of R141 appended in order. -/
theorem State.appendGap_all (s : State) (ps : List Nat) :
    ps.foldl State.appendGap s =
      (State.extended s (ps.map fun p => .gap p s.expectedNow)).gapsCounted
        (s.counters.check.gapsInserted + BitVec.ofNat 32 ps.length) := by
  induction ps generalizing s with
  | nil => simp [State.extended, State.gapsCounted]
  | cons p q ih =>
    have h2 : (s.appendGap p).expectedNow = s.expectedNow := by rw [State.appendGap_eq]; rfl
    have h3 : (s.appendGap p).counters.check.gapsInserted = s.counters.check.gapsInserted + 1 := by
      rw [State.appendGap_eq]; rfl
    rw [List.foldl_cons, ih, h2, h3, State.appendGap_eq, State.extended_gapsCounted, State.extended_append]
    have : s.counters.check.gapsInserted + 1 + BitVec.ofNat 32 q.length =
        s.counters.check.gapsInserted + BitVec.ofNat 32 (q.length + 1) := by
      rw [BitVec.ofNat_add, BitVec.add_assoc, BitVec.add_comm (1 : Count)]; rfl
    rw [this]; rfl

/-- A record that is no duplicate, whole (R138 to R144). -/
theorem State.takeRecord_new (s : State) (p : Nat) (rev : Half) (entry : TransitEntry)
    (h : s.transit.lastRev.getD p none ≠ some rev) :
    ∃ (gaps : List TransitEntry) (fault : Bool),
      (s.transit.nextPocket = none → gaps = [] ∧ fault = false) ∧
      (∀ e, s.transit.nextPocket = some e →
        let n := s.config.header.n
        let m := (p + n - e) % n
        (m = 0 → gaps = [] ∧ fault = false) ∧
        (1 ≤ m → m ≤ n / 2 → fault = false ∧
          gaps = (List.range m).map fun i => TransitEntry.gap ((e + i) % n) s.expectedNow) ∧
        (n / 2 < m → gaps = [] ∧ fault = true)) ∧
      let new := gaps ++ [entry]
      let room := 512 - s.transit.entries.length
      let c := s.counters.check
      s.takeRecord p rev entry = { s with
        transit := { s.transit with
          entries := s.transit.entries ++ new.take room
          nextPocket := some ((p + 1) % s.config.header.n)
          lastRev := s.transit.lastRev.set p (some rev) }
        counters := { s.counters with check := { c with
          gapsInserted := c.gapsInserted + BitVec.ofNat 32 gaps.length
          orderFaults := if fault then c.orderFaults + 1 else c.orderFaults
          transitOverflows := c.transitOverflows + BitVec.ofNat 32 (new.length - room) } } } := by
  have h0 : ¬ s.transit.lastRevOf p = some rev := h
  simp only [State.takeRecord, if_neg h0]
  simp only [State.reckonGaps]
  cases hn : s.transit.nextPocket with
  | none =>
    refine ⟨[], false, fun _ => ⟨rfl, rfl⟩, fun e he => by simp at he, ?_⟩
    simp only [State.withTransit]
    try dsimp only
    rw [State.appendEntry_extended]
    simp [State.extended]
  | some e =>
    by_cases h1 : (p + s.config.header.n - e) % s.config.header.n = 0
    · refine ⟨[], false, (fun h => nomatch h), ?_, ?_⟩
      · intro e' he; cases he; exact ⟨fun _ => ⟨rfl, rfl⟩, fun h => by omega, fun h => by omega⟩
      · simp only [State.withTransit]
        try dsimp only
        simp only [h1, if_true, State.appendEntry_extended]
        simp [State.extended]
    · by_cases h2 : (p + s.config.header.n - e) % s.config.header.n ≤ s.config.header.n / 2
      · refine ⟨(List.range ((p + s.config.header.n - e) % s.config.header.n)).map fun i =>
          TransitEntry.gap ((e + i) % s.config.header.n) s.expectedNow,
          false, (fun h => nomatch h), ?_, ?_⟩
        · intro e' he; cases he; exact ⟨fun h => absurd h h1, fun _ _ => ⟨rfl, rfl⟩, fun h => by omega⟩
        · simp only [State.withTransit]
          try dsimp only
          simp only [h1, h2, if_true, if_false, State.appendGaps, State.appendGap_all,
              State.appendEntry_extended]
          rw [State.extended_gapsCounted, State.extended_append]
          simp [State.gapsCounted, State.extended, State.expectedNow, List.map_map, Function.comp_def]
      · refine ⟨[], true, (fun h => nomatch h), ?_, ?_⟩
        · intro e' he; cases he; exact ⟨fun h => absurd h h1, fun _ h => absurd h h2, fun _ => ⟨rfl, rfl⟩⟩
        · simp only [State.withTransit]
          try dsimp only
          simp only [h1, h2, if_false, State.appendEntry_extended]
          simp [State.extended, State.countCheck, State.withCounters]

/-- The kind of a VOID. -/
theorem TransitEntry.void_is (h r x) : TransitEntry.isVoid (.void h r x) = true ∧
    TransitEntry.isGap (.void h r x) = false := ⟨rfl, rfl⟩

/-- The kind of a GAP. -/
theorem TransitEntry.gap_is (h x) : TransitEntry.isVoid (.gap h x) = false ∧
    TransitEntry.isGap (.gap h x) = true := ⟨rfl, rfl⟩

/-- The kind of a SEAL. -/
theorem TransitEntry.sealed_is (h x) : TransitEntry.isVoid (.sealed h x) = false ∧
    TransitEntry.isGap (.sealed h x) = false := ⟨rfl, rfl⟩

/-- The MISSINGs of closed windows, in list order (R147). -/
def missingNotices (l : List TransitEntry) : List Notice := l.filterMap TransitEntry.missing

/-- Closed windows, whole (R146, R147). -/
theorem State.closeWindow_all (l : List TransitEntry) (s : State) :
    let u := l.foldl State.closeWindow s
    let c := s.counters.check
    let voids := l.countP TransitEntry.isVoid
    let gaps := l.countP TransitEntry.isGap
    u.counters.check = { c with
          voidsRetired := c.voidsRetired + BitVec.ofNat 32 voids
          gapsEmpty := c.gapsEmpty + BitVec.ofNat 32 gaps
          missingSeals := c.missingSeals + BitVec.ofNat 32 (missingNotices l).length } ∧
    u.config.lifetime = { s.config.lifetime with
          three := s.config.lifetime.three + BitVec.ofNat 32 (missingNotices l).length } ∧
    u.link = (missingNotices l).foldl Link.offered s.link ∧ u.transit = s.transit ∧
    u.reject = s.reject ∧ u.node = s.node ∧ u.pins = s.pins ∧ u.memory = s.memory := by
  induction l generalizing s with
  | nil => simp [missingNotices]
  | cons e q ih =>
    have hadd : ∀ (c : Count) (n : Nat), c + 1 + BitVec.ofNat 32 n = c + BitVec.ofNat 32 (n + 1) := by
      intro c n
      rw [BitVec.ofNat_add, BitVec.add_assoc, BitVec.add_comm (1 : Count)]; rfl
    dsimp only at ih ⊢
    rw [List.foldl_cons]
    obtain ⟨a1, a2, a3, a4, a5, a6, a7, a8⟩ := ih (s.closeWindow e)
    rw [a1, a2, a3, a4, a5, a6, a7, a8]
    cases e with
    | void h r x =>
      have : missingNotices (TransitEntry.void h r x :: q) = missingNotices q := rfl
      rw [this]
      simp [State.closeWindow, State.countCheck, State.withCounters, TransitEntry.void_is,
          TransitEntry.gap_is, TransitEntry.sealed_is, List.countP_cons]
      exact hadd _ _
    | gap h x =>
      have : missingNotices (TransitEntry.gap h x :: q) = missingNotices q := rfl
      rw [this]
      simp [State.closeWindow, State.countCheck, State.withCounters, TransitEntry.void_is,
          TransitEntry.gap_is, TransitEntry.sealed_is, List.countP_cons]
      exact hadd _ _
    | sealed m x =>
      have : missingNotices (TransitEntry.sealed m x :: q) =
          Notice.verdict (missingVerdict m) :: missingNotices q := rfl
      rw [this]
      simp [State.closeWindow, State.offer_link, TransitEntry.void_is, TransitEntry.gap_is,
          TransitEntry.sealed_is, List.countP_cons]
      exact ⟨hadd _ _, hadd _ _⟩

/-- A list splits at the first element that fails a test. -/
theorem List.split_at_first {α : Type} (p : α → Bool) (a b : List α) (ha : ∀ e ∈ a, p e = true) (hb : ∀ e,
    b.head? = some e → p e = false) :
    (a ++ b).takeWhile p = a ∧ (a ++ b).dropWhile p = b := by
  induction a with
  | nil => cases b with
    | nil => simp
    | cons x q => simp [hb x rfl]
  | cons x q ih =>
    have := ih (fun e h => ha e (List.mem_cons_of_mem _ h))
    simp [ha x (List.mem_cons_self ..), this]

/-- Where a gate position is placed (R166). -/
theorem insertGate_splits (g : Position) (q : List Position) : ∃ front back, q = front ++ back ∧
    insertGate g q = front ++ g :: back ∧
      (∀ x ∈ front, 0 ≤ since g x) ∧ (∀ x, back.head? = some x → ¬ 0 ≤ since g x) := by
  induction q with
  | nil => exact ⟨[], [], rfl, rfl, by simp, by simp⟩
  | cons x q ih =>
    obtain ⟨f, b, h1, h2, h3, h4⟩ := ih
    by_cases h : reached g x = true
    · refine ⟨x :: f, b, by rw [h1]; rfl, by simp [insertGate, h, h2], ?_, h4⟩
      intro y hy
      rcases List.mem_cons.1 hy with rfl | hy
      · simpa [reached] using h
      · exact h3 y hy
    · refine ⟨[], x :: q, rfl, by simp [insertGate, h], by simp, ?_⟩
      intro y hy
      cases hy
      simpa [reached] using h

/-- A gate position lengthens the queue by one. -/
theorem insertGate_length (g : Position) (q : List Position) : (insertGate g q).length = q.length + 1 := by
  induction q with
  | nil => rfl
  | cons x q ih => unfold insertGate; split <;> simp [ih]

/-- What a stop cause does (R169). -/
theorem State.setStop_eq (s : State) (why : StopCause) : s.setStop why = if s.reject.stop then s else
    ({ s with
      reject := { s.reject with stop := true }
      counters := { s.counters with
        check := { s.counters.check with lineStops := s.counters.check.lineStops + 1 } }
      config := { s.config with
        lifetime := { s.config.lifetime with four := s.config.lifetime.four + 1 } } } :
      State).offer (.state (.stop why.detail)) := by
  unfold State.setStop; rfl

/-- What a rejection does (R165, R166, R169). -/
theorem State.rejectJar_rejected (s : State) (x : Position) : (s.rejectJar x).Rejected s x := by
  unfold State.Rejected
  dsimp only
  by_cases hfull : 32 ≤ s.reject.queue.length
  · refine ⟨s.reject.queue, fun _ => rfl, fun h => absurd hfull h, ?_⟩
    by_cases hstop : s.reject.stop = true
    · refine ⟨fun _ => ?_, fun h => by simp [hstop] at h⟩
      simp [State.rejectJar, rejectCapacity, hfull, hstop, State.setStop_eq, Nat.not_lt.2 hfull,
          State.countCheck, State.withCounters, State.withReject, State.countLifetime, State.withConfig,
          runCap]
    · have hstop : s.reject.stop = false := by simpa using hstop
      refine ⟨fun h => by simp [hstop, hfull] at h, fun _ => ?_⟩
      simp [State.rejectJar, rejectCapacity, hfull, hstop, State.setStop_eq, Nat.not_lt.2 hfull,
          State.countCheck, State.withCounters, State.withReject, State.countLifetime, State.withConfig,
          runCap, StopCause.detail]
  · obtain ⟨f, b, h1, h2, h3,
      h4⟩ := insertGate_splits (x + BitVec.ofNat 32 s.config.header.gGate) s.reject.queue
    refine ⟨_, fun h => absurd h hfull, fun _ => ⟨f, b, h1, h2, h3, h4⟩, ?_⟩
    have hlt := Nat.not_le.1 hfull
    by_cases hstop : s.reject.stop = true
    · refine ⟨fun _ => ?_, fun h => by simp [hstop] at h⟩
      simp [State.rejectJar, rejectCapacity, hfull, hstop, State.setStop_eq, hlt, State.countCheck,
          State.withCounters, State.withReject, State.countLifetime, State.withConfig, runCap]
    · have hstop : s.reject.stop = false := by simpa using hstop
      by_cases htrip : 0 < s.config.header.nStop ∧ s.config.header.nStop ≤ min 255 (s.reject.consecutive + 1)
      · refine ⟨fun h => by simp [hstop, hfull] at h; omega, fun _ => ?_⟩
        have ht1 := htrip.1
        have ht2 : s.config.header.nStop ≤ 255 := by omega
        have ht3 : s.config.header.nStop ≤ s.reject.consecutive + 1 := by omega
        simp [State.rejectJar, rejectCapacity, hfull, hstop, State.setStop_eq, hlt, State.countCheck,
            State.withCounters, State.withReject, State.countLifetime, State.withConfig, runCap,
            StopCause.detail, ht1, ht2, ht3]
      · refine ⟨fun _ => ?_, fun h => ?_⟩
        · have ht : ¬ (0 < s.config.header.nStop ∧ s.config.header.nStop ≤ 255 ∧
            s.config.header.nStop ≤ s.reject.consecutive + 1) := by omega
          simp [State.rejectJar, rejectCapacity, hfull, hstop, State.setStop_eq, hlt, State.countCheck,
              State.withCounters, State.withReject, State.countLifetime, State.withConfig, runCap,
              StopCause.detail, ht]
        · exact absurd h.2 (by simp [hfull]; omega)

/-- The no-reading run (R163). -/
theorem State.lengthenRun_noted (s : State) (r : Option SensorReading) :
    (if readingOk r then s
      else (s.countCheck fun c => { c with unmeasured := c.unmeasured + 1 }).lengthenRun) = s.noted r := by
  have h0 : readingOk r = r.any (·.ok) := by cases r <;> rfl
  rw [h0]
  unfold State.noted
  by_cases h : r.any (·.ok) = true
  · rw [if_pos h, if_pos h]
  · rw [if_neg h, if_neg h]
    simp only [State.lengthenRun, State.countCheck, State.withCounters, State.withReject, runCap]
    by_cases h1 : s.config.header.m ≤ min 255 (s.reject.noReading + 1)
    · by_cases h2 : s.reject.fallback = true
      · simp [h2]
      · simp [h1, h2]
    · simp only [Nat.le_min] at h1
      simp [Nat.le_min, h1]

/-- The measured vacuum (R102, R103). -/
theorem State.panelVacuum_measures (s : State) (e : SealEntry) (p : Position) (r : Option SensorReading) :
    s.panelVacuum (.sealed e p) r = s.measures e r := by
  unfold State.panelVacuum State.measures
  rcases r with _ | ⟨v, b⟩
  · rfl
  · cases b
    · simp
    · by_cases hu : s.config.usable.get e.bank = true
      · simp only [hu, if_true, and_self, State.bankOf, measuredVacuum, clampDeflection]
        rw [Int.fdiv_eq_ediv_of_nonneg _ (by decide)]
        generalize (max (-2000) (min 2000 v) - (s.config.banks.get e.bank).d0) *
          ((s.config.banks.get e.bank).gain : Int) / 256 = z
        simp only [clampNat]
        congr 1
        omega
      · simp [hu]

/-- The outcome of a SEAL and its VERDICT code (R161). -/
theorem outcome_sealCode (s : State) (e : SealEntry) (p : Position) (r : Option SensorReading) :
    (outcomeOf (.sealed e p) (s.measures e r) (s.bankOf e.bank)).code = s.sealCode e r ∧
    (outcomeOf (.sealed e p) (s.measures e r) (s.bankOf e.bank) = .accept ↔ s.sealCode e r = 0) := by
  unfold outcomeOf State.sealCode State.bankOf
  dsimp only
  cases hs : e.sigMatch
  · simp [Outcome.code]
  · by_cases hc : e.capVerdict = 0
    · cases hm : s.measures e r with
      | none =>
        by_cases hv : (s.config.banks.get e.bank).vMin + (s.config.banks.get e.bank).fallbackMargin ≤ e.vPred
        · simp [hc, hv, Outcome.code, Nat.not_lt.2 hv]
        · simp [hc, hv, Outcome.code, Nat.not_le.1 hv]
      | some v =>
        by_cases hv : (s.config.banks.get e.bank).vMin ≤ v
        · simp [hc, hv, Outcome.code, Nat.not_lt.2 hv]
        · simp [hc, hv, Outcome.code, Nat.not_le.1 hv]
    · have hc' : ¬ e.capVerdict = 0#4 := hc
      simp [hc', Outcome.code]

/-- The VERDICT flags bit by bit (R162). -/
theorem verdictFlags_say (a b c : Bool) : verdictFlagsSay (verdictFlags a b c) a b c := by
  cases a <;> cases b <;> cases c <;> exact ⟨rfl, rfl, rfl, by decide⟩

/-- What a judgement does (R161 to R165). -/
theorem State.judge_judged (s : State) (e : Matched) (x : Position) (r : Option SensorReading) :
    (s.judge e x r).Judged s e x r := by
  constructor
  · intro h p he; subst he
    have hd : deviates (.gap h p) (s.panelVacuum (.gap h p) r) (s.judgeBank (.gap h p)) = false := rfl
    have ho : outcomeOf (.gap h p) (s.panelVacuum (.gap h p) r) (s.judgeBank (.gap h p)) = .rejGap := rfl
    simp only [State.judge, hd, ho, Bool.false_eq_true, if_false, State.lengthenRun_noted, reduceCtorEq]
    exact State.rejectJar_rejected _ _
  · intro se p he; subst he
    dsimp only
    obtain ⟨c1, c2⟩ := outcome_sealCode s se p r
    have hdev : deviates (.sealed se p) (s.measures se r) (s.bankOf se.bank) = ((se.sigMatch &&
        se.capVerdict == 0) && (s.measures se r).any fun v =>
      decide ((s.config.banks.get se.bank).deviation < ((v : Int) - se.vPred).natAbs)) := by
      unfold deviates
      cases s.measures se r <;> first | rfl | simp [Matched.judgedByVacuum, State.bankOf]
    refine ⟨_, verdictFlags_say _ _ _, ?_⟩
    generalize hD : ((se.sigMatch && se.capVerdict == 0) && (s.measures se r).any fun v =>
      decide ((s.config.banks.get se.bank).deviation < ((v : Int) - se.vPred).natAbs)) = dev at *
    have hnote :
        (if readingOk r then
          (if dev then s.countCheck fun c => { c with deviations := c.deviations + 1 } else s)
        else
          (((if dev then s.countCheck fun c => { c with deviations := c.deviations + 1 } else s).countCheck
            fun c => { c with unmeasured := c.unmeasured + 1 }).lengthenRun)) =
      ({ s.noted r with counters := { (s.noted r).counters with
        check := { (s.noted r).counters.check with
          deviations := if dev then (s.noted r).counters.check.deviations + 1
            else (s.noted r).counters.check.deviations } } } : State) := by
      cases dev
      · simp only [Bool.false_eq_true, if_false]; rw [State.lengthenRun_noted]
      · have hok : readingOk r = true := by
          rcases r with _ | ⟨v, b⟩
          · simp [State.measures] at hD
          · cases b
            · simp [State.measures] at hD
            · rfl
        have hn : s.noted r = s := by
          unfold State.noted
          rw [if_pos]
          cases r <;> simp_all [readingOk]
        rw [if_pos hok, hn]; rfl
    have hj : s.judge (.sealed se p) x r = (let s2 := ({ s.noted r with counters := { (s.noted r).counters with
        check := { (s.noted r).counters.check with
          deviations := if dev then (s.noted r).counters.check.deviations + 1
            else (s.noted r).counters.check.deviations } } } : State)
        let s3 := s2.offer (.verdict
          { head := BitVec.ofNat 8 se.head, revolution := se.revolution, code := s.sealCode se r,
              flags := verdictFlags dev ((se.sigMatch && se.capVerdict == 0) &&
              (s.measures se r).isNone) s2.reject.fallback
            vMeas := BitVec.ofNat 16 ((s.measures se r).getD 65535) })
        if s.sealCode se r = 0 then s3.acceptJar else s3.rejectJar x) := by
      simp only [State.judge, State.panelVacuum_measures, State.judgeBank, hdev, hnote,
          Matched.judgedByVacuum, verdictOf, c1, c2]
      have : (s.measures se r == none) = (s.measures se r).isNone := by cases s.measures se r <;> rfl
      rw [this]
    rw [hj]
    dsimp only
    refine ⟨fun h => ?_, fun h => ?_⟩
    · rw [if_pos h]; rfl
    · rw [if_neg h]; exact State.rejectJar_rejected _ _

/-- Clearing an empty slot changes nothing. -/
theorem State.slot_clear (w : State) (h : w.reject.slot = .empty) :
    ({ w with reject := { w.reject with slot := .empty } } : State) = w := by
  rw [← h]

/-- What settling the slot does (R157). -/
theorem State.settleSlot_settled (s : State) : s.settleSlot.Settled s := by
  constructor
  · intro e x h
    simp only [State.settleSlot, h, State.withReject]
    exact State.judge_judged _ _ _ _
  · intro h
    cases hs : s.reject.slot with
    | empty =>
      simp only [State.settleSlot, hs]
      exact (State.slot_clear s hs).symm
    | held e x => exact absurd hs (h e x)
    | stray x => simp [State.settleSlot, hs, State.withReject]

/-- The sizes of the check station hold after if they held before. -/
def State.keepsSizes (s u : State) : Prop := s.stationOk → u.stationOk

/-- Only the list, the queue and the two counts matter. -/
theorem State.keepsSizes_of {s u : State} (h1 : u.transit.entries = s.transit.entries)
    (h2 : u.reject.queue = s.reject.queue) (h3 : u.reject.consecutive = s.reject.consecutive)
    (h4 : u.reject.noReading = s.reject.noReading) : State.keepsSizes s u :=
  fun h => ⟨by rw [h1]; exact h.1, by rw [h2]; exact h.2, by rw [h3]; exact h.3, by rw [h4]; exact h.4⟩

/-- It keeps the sizes. -/
theorem State.setStop_sizes (s : State) (w : StopCause) : State.keepsSizes s (s.setStop w) := by
  unfold State.setStop
  split
  · exact State.keepsSizes_of rfl rfl rfl rfl
  · exact State.keepsSizes_of (by simp) (by simp) (by simp) (by simp)

/-- It keeps the sizes. -/
theorem State.rejectJar_sizes (s : State) (x : Position) : State.keepsSizes s (s.rejectJar x) := by
  intro h
  have h0 : ∀ y : State, y.stationOk → ∀ w,
      (y.setStop w).stationOk := fun y hy w => State.setStop_sizes y w hy
  have hb : (((s.withReject { s.reject with consecutive := min runCap (s.reject.consecutive + 1) }).countCheck
    fun c => { c with rejects := c.rejects + 1 }).countLifetime
      fun l => { l with two := l.two + 1 }).stationOk :=
    ⟨h.1, h.2, by simp [runCap], h.4⟩
  unfold State.rejectJar
  dsimp only
  generalize hx : (((s.withReject
    { s.reject with consecutive := min runCap (s.reject.consecutive + 1) }).countCheck
    fun c => { c with rejects := c.rejects + 1 }).countLifetime fun l => { l with two := l.two + 1 }) = y at hb
  have key : ∀ z : State, z.stationOk → (if 0 < z.config.header.nStop ∧
      z.config.header.nStop ≤ z.reject.consecutive then
    z.setStop .consecutive else z).stationOk := by
    intro z hz; split
    · exact h0 _ hz _
    · exact hz
  apply key
  split
  · rename_i hq
    exact ⟨hb.1, by simp only [State.withReject_reject,
        insertGate_length]; simp [rejectCapacity] at hq; omega, hb.3, hb.4⟩
  · exact h0 (y.countCheck fun c => { c with rejectOverflows := c.rejectOverflows + 1 }) ⟨hb.1, hb.2, hb.3,
      hb.4⟩ _

/-- It keeps the sizes. -/
theorem State.judge_sizes (s : State) (e : Matched) (x : Position) (r : Option SensorReading) :
    State.keepsSizes s (s.judge e x r) := by
  intro h
  unfold State.judge
  dsimp only
  have h1 : (if deviates e (s.panelVacuum e r) (s.judgeBank e) then
        s.countCheck fun c => { c with deviations := c.deviations + 1 } else s).stationOk := by
    split
    · exact ⟨h.1, h.2, h.3, h.4⟩
    · exact h
  generalize (if deviates e (s.panelVacuum e r) (s.judgeBank e) then
    s.countCheck fun c => { c with deviations := c.deviations + 1 } else s) = y at h1
  have h2 : (if readingOk r then y
      else (y.countCheck fun c => { c with unmeasured := c.unmeasured + 1 }).lengthenRun).stationOk := by
    split
    · exact h1
    · unfold State.lengthenRun
      dsimp only
      split
      · exact ⟨by simpa using h1.1, by simpa using h1.2, by simpa using h1.3, by simp [runCap]⟩
      · exact ⟨by simpa using h1.1, by simpa using h1.2, by simpa using h1.3, by simp [runCap]⟩
  generalize (if readingOk r then y
    else (y.countCheck fun c => { c with unmeasured := c.unmeasured + 1 }).lengthenRun) = z at h2
  have h3 : ∀ n : Notice, (z.offer n).stationOk := fun n => ⟨by simpa using h2.1, by simpa using h2.2,
      by simpa using h2.3, by simpa using h2.4⟩
  have h4 : ∀ w : State, w.stationOk → w.acceptJar.stationOk := fun w hw => ⟨hw.1, hw.2,
      by simp [State.acceptJar], hw.4⟩
  (repeat' split) <;> first
      | exact h4 _ (h3 _)
      | exact h4 _ h2
      | exact State.rejectJar_sizes _ _ (h3 _)
      | exact State.rejectJar_sizes _ _ h2

/-- It keeps the sizes. -/
theorem State.settleSlot_sizes (s : State) : State.keepsSizes s s.settleSlot := by
  unfold State.settleSlot
  split
  · exact State.keepsSizes_of rfl rfl rfl rfl
  · exact State.keepsSizes_of rfl rfl rfl rfl
  · intro h; exact State.judge_sizes _ _ _ _ ⟨h.1, h.2, h.3, h.4⟩

/-- It keeps the sizes. -/
theorem State.strayArrives_sizes (s : State) : State.keepsSizes s s.strayArrives := by
  intro h
  unfold State.strayArrives State.takeStray
  dsimp only
  refine State.rejectJar_sizes _ _ ?_
  have := State.settleSlot_sizes (s.countCheck fun c => { c with strays := c.strays + 1 }) ⟨h.1, h.2, h.3,
      h.4⟩
  exact ⟨this.1, this.2, this.3, this.4⟩

/-- It keeps the sizes. -/
theorem State.takeMatch_sizes (s : State) (e : Matched) (x : Position) :
    State.keepsSizes s (s.takeMatch e x) := by
  intro h
  unfold State.takeMatch
  have := State.settleSlot_sizes s h
  exact ⟨this.1, this.2, this.3, this.4⟩

/-- It keeps the sizes. -/
theorem State.jarArrives_sizes (s : State) : State.keepsSizes s s.jarArrives := by
  intro h
  unfold State.jarArrives
  split
  · exact State.strayArrives_sizes _ h
  · rename_i e rest hq
    have hrest : (s.withTransit { s.transit with entries := rest }).stationOk :=
      ⟨by have := h.1; rw [hq] at this; simp at this ⊢; omega, h.2, h.3, h.4⟩
    dsimp only
    split
    · exact State.strayArrives_sizes _ h
    · split
      · exact State.strayArrives_sizes _ hrest
      · exact State.takeMatch_sizes _ _ _ hrest
      · exact State.takeMatch_sizes _ _ _ hrest

/-- Dropping a front part does not lengthen. -/
theorem List.length_dropWhile {α : Type} (p : α → Bool) (l : List α) : (l.dropWhile p).length ≤ l.length :=
  (List.dropWhile_sublist p).length_le

/-- It keeps the sizes. -/
theorem State.closeWindows_sizes (s : State) : State.keepsSizes s s.closeWindows := by
  intro h
  unfold State.closeWindows
  dsimp only
  have h0 : (s.withTransit
      { s.transit with entries := s.transit.entries.dropWhile s.windowPassed }).stationOk :=
    ⟨by have := List.length_dropWhile s.windowPassed s.transit.entries; have := h.1; simp; omega, h.2, h.3,
        h.4⟩
  generalize (s.withTransit { s.transit with entries := s.transit.entries.dropWhile s.windowPassed }) = y at h0
  generalize s.transit.entries.takeWhile s.windowPassed = l
  induction l generalizing y with
  | nil => exact h0
  | cons e q ih =>
    refine ih _ ?_
    cases e
    · exact ⟨by simpa [State.closeWindow] using h0.1, by simpa [State.closeWindow] using h0.2,
        by simpa [State.closeWindow] using h0.3, by simpa [State.closeWindow] using h0.4⟩
    · exact ⟨h0.1, h0.2, h0.3, h0.4⟩
    · exact ⟨h0.1, h0.2, h0.3, h0.4⟩

/-- It keeps the sizes. -/
theorem State.appendEntry_sizes (s : State) (e : TransitEntry) : State.keepsSizes s (s.appendEntry e) := by
  intro h
  unfold State.appendEntry
  split
  · rename_i hq; exact ⟨by simp [transitCapacity] at hq ⊢; omega, h.2, h.3, h.4⟩
  · exact ⟨h.1, h.2, h.3, h.4⟩

/-- It keeps the sizes. -/
theorem State.appendGap_sizes (s : State) (l : List Nat) :
    State.keepsSizes s (l.foldl State.appendGap s) := by
  induction l generalizing s with
  | nil => exact id
  | cons p q ih =>
    intro h
    refine ih _ ?_
    have := State.appendEntry_sizes s (.gap p s.expectedNow) h
    exact ⟨this.1, this.2, this.3, this.4⟩

/-- It keeps the sizes. -/
theorem State.reckonGaps_sizes (s : State) (p : Nat) : State.keepsSizes s (s.reckonGaps p) := by
  intro h
  unfold State.reckonGaps
  dsimp only
  (repeat' split) <;> first | exact h | exact State.appendGap_sizes _ _ h | exact ⟨h.1, h.2, h.3, h.4⟩

/-- It keeps the sizes. -/
theorem State.takeRecord_sizes (s : State) (p : Nat) (r : Half) (e : TransitEntry) :
    State.keepsSizes s (s.takeRecord p r e) := by
  intro h
  unfold State.takeRecord
  dsimp only
  split
  · exact ⟨h.1, h.2, h.3, h.4⟩
  · have h1 : (s.withTransit { s.transit with lastRev := s.transit.lastRev.set p (some r) }).stationOk :=
      ⟨h.1, h.2, h.3, h.4⟩
    have := State.appendEntry_sizes _ e (State.reckonGaps_sizes _ p h1)
    exact ⟨this.1, this.2, this.3, this.4⟩

/-- It keeps the sizes. -/
theorem State.takeReading_sizes (s : State) (r : SensorReading) : State.keepsSizes s (s.takeReading r) := by
  intro h
  unfold State.takeReading
  dsimp only
  have h1 : (if r.ok then s.sensorReads else s).stationOk := by
    split
    · unfold State.sensorReads; dsimp only; split
      · exact ⟨by simpa using h.1, by simpa using h.2, by simpa using h.3, by simp⟩
      · exact ⟨h.1, h.2, h.3, by simp⟩
    · exact h
  generalize (if r.ok then s.sensorReads else s) = y at h1
  split
  · exact ⟨h1.1, h1.2, h1.3, h1.4⟩
  · exact ⟨h1.1, h1.2, h1.3, h1.4⟩
  · exact State.judge_sizes _ _ _ _ ⟨h1.1, h1.2, h1.3, h1.4⟩

end Sys2Proof.Machine
end

