-- ==== Sys2Proof/Laws/ValveKept.lean ====
section
/-! SUPPORT. The sequencer, the tracker and the closing unit keep the law of the valve and of the dose. -/

namespace Sys2Proof.Machine

/-! ### Changes of the cycle state -/

/-- From one cycle at work to another. -/
theorem State.valveOk_steams {s u : State} (h : s.valveOk) (h1 : u.steam = s.steam)
    (h3 : u.config.header = s.config.header) (hc : u.seq.cycle.steams) : u.valveOk := by
  unfold State.valveOk
  rw [h1, h3]
  exact ⟨h.commanded, h.flushing, fun _ => hc, fun _ => Or.inl hc, h.uncounted,
    fun x => ⟨(h.ticking x).1, Or.inl hc⟩, h.below, h.bounded⟩

/-- From a cycle state that has no steam work, to any other. -/
theorem State.valveOk_leave {s u : State} (h : s.valveOk)
    (hc : ¬ (s.seq.cycle.steams ∨ s.seq.cycle = .ended)) (h1 : u.steam = s.steam)
    (h3 : u.config.header = s.config.header) : u.valveOk :=
  State.valveOk_rest h (h.idle hc).1 (h.idle hc).2.1 (h.idle hc).2.2.1 h1 h3

theorem State.withTracker_valveOk {s : State} (h : s.valveOk) (tr : Tracker) : (s.withTracker tr).valveOk :=
  State.valveOk_of_eq h rfl rfl rfl

theorem State.countHead_valveOk {s : State} (h : s.valveOk) (f : HeadCounters → HeadCounters) :
    (s.countHead f).valveOk :=
  State.valveOk_of_eq h rfl rfl rfl

theorem CycleState.idle_rests : ¬ (CycleState.idle.steams ∨ CycleState.idle = .ended) := by
  simp [CycleState.steams, CycleState.isClosing]

theorem CycleState.loading_rests : ¬ (CycleState.loading.steams ∨ CycleState.loading = .ended) := by
  simp [CycleState.steams, CycleState.isClosing]

theorem CycleState.primed_rests : ¬ (CycleState.primed.steams ∨ CycleState.primed = .ended) := by
  simp [CycleState.steams, CycleState.isClosing]

theorem CycleState.steams_of_isClosing {c : CycleState} (h : c.isClosing = true) : c.steams := Or.inr h

/-! ### Boundaries -/

theorem State.preventStart_valveOk {s : State} (h : s.valveOk) (hc : s.seq.cycle = .idle) :
    s.preventStart.valveOk := by
  refine State.valveOk_leave h (by rw [hc]; exact CycleState.idle_rests) ?_ (by simp)
  generalize hu : s.preventStart = u
  simp only [State.preventStart] at hu
  (repeat' split at hu) <;> subst hu <;> simp

theorem State.takePendingLock_valveOk {s : State} (h : s.valveOk) (hc : s.seq.cycle = .idle) :
    s.takePendingLock.valveOk ∧ s.takePendingLock.seq.cycle = .idle := by
  simp only [State.takePendingLock]
  split
  · exact ⟨h, hc⟩
  · exact ⟨State.valveOk_of_eq h (by simp) (by simp) (by simp), by simpa using hc⟩
  · have h1 : (s.withSeq { s.seq with commandedLock := false, pendingLock := .none }).valveOk :=
      State.valveOk_of_eq h (by simp) (by simp) (by simp)
    exact ⟨State.valveOk_of_eq (State.clearFaultShut_valveOk h1) (by simp) (by simp) (by simp),
      by simpa using hc⟩

theorem State.postLeftOver_valveOk {s : State} (h : s.valveOk) :
    s.postLeftOver.valveOk ∧ s.postLeftOver.seq.cycle = .idle := by
  simp only [State.postLeftOver]
  split
  · rename_i hc; exact ⟨h, by simpa using hc⟩
  · exact State.releaseAndPost_valveOk (State.valveOk_of_eq h (by simp) (by simp) (by simp))

theorem State.atInfeed_valveOk {s : State} (h : s.valveOk) : s.atInfeed.valveOk := by
  obtain ⟨h1, h2⟩ := State.postLeftOver_valveOk h
  simp only [State.atInfeed]
  generalize s.postLeftOver = x at h1 h2
  split
  · have h3 : x.takePendingBank.valveOk ∧ x.takePendingBank.seq.cycle = .idle := by
      simp only [State.takePendingBank]
      split
      · exact ⟨h1, h2⟩
      · exact ⟨State.valveOk_of_eq h1 (by simp) (by simp) (by simp), by simpa using h2⟩
    obtain ⟨h4, h5⟩ := State.takePendingLock_valveOk h3.1 h3.2
    exact State.preventStart_valveOk (State.valveOk_of_eq h4 (by simp) (by simp [State.openRecord]) (by simp))
      (by simpa [State.openRecord] using h5)
  · exact h1

theorem State.atPick_valveOk {s : State} (h : s.valveOk) : s.atPick.valveOk := by
  simp only [State.atPick]
  split
  · rename_i hc
    have hc : s.seq.cycle = .loading := by simpa using hc
    have hr := CycleState.loading_rests
    rw [← hc] at hr
    split <;> exact State.valveOk_leave h hr (by simp) (by simp)
  · exact h

theorem State.atFlushStart_valveOk {s : State} (h : s.valveOk) : s.atFlushStart.valveOk := by
  simp only [State.atFlushStart]
  split
  · rename_i hc
    have hc : s.seq.cycle = .primed := by simpa using hc
    have hr := CycleState.primed_rests
    rw [← hc] at hr
    split
    · obtain ⟨i1, i2, i3, i4, i5, i6⟩ := h.idle hr
      refine State.openRequest_valveOk ?_ _ (by simp [CycleState.steams]) (by simpa using ⟨i4, i5⟩)
        (by simpa using i3)
      exact (State.valveOk_leave h hr (by simp) (by simp)).near
    · exact (State.abort_valveOk h _).1
  · exact h

theorem State.atApplyStart_valveOk {s : State} (h : s.valveOk) : s.atApplyStart.valveOk := by
  simp only [State.atApplyStart]
  split
  · split
    · exact State.valveOk_steams h (by simp) (by simp) (Or.inr rfl)
    · exact (State.abort_valveOk h _).1
  · exact h

theorem State.atFlushEnd_valveOk {s : State} (h : s.valveOk) : s.atFlushEnd.valveOk := by
  simp only [State.atFlushEnd]
  split
  · exact (State.shutRequest_valveOk h _).1
  · exact h

theorem State.atApplyEnd_valveOk {s : State} (h : s.valveOk) : s.atApplyEnd.valveOk := by
  obtain ⟨h1, h2⟩ := State.shutRequest_valveOk h .abort
  simp only [State.atApplyEnd]
  split
  · exact State.valveOk_recycle h1 h2 (by simp) (by simp) (Or.inr rfl)
  · exact State.valveOk_recycle h1 h2 (by simp) (by simp) (Or.inr rfl)
  · exact h

theorem State.atRelease_valveOk {s : State} (h : s.valveOk) : s.atRelease.valveOk := by
  simp only [State.atRelease]
  split
  · exact (State.releaseAndPost_valveOk (State.valveOk_of_eq h (by simp) (by simp [State.makeGood])
      (by simp))).1
  · exact (State.releaseAndPost_valveOk h).1
  · exact h

theorem State.handBoundaries_valveOk {s : State} (h : s.valveOk) (bs : List Boundary) :
    (s.handBoundaries bs).valveOk := by
  unfold State.handBoundaries
  induction bs generalizing s with
  | nil => exact h
  | cons b bs ih =>
    refine ih ?_
    cases b <;> simp only [State.handBoundary]
    · exact State.atInfeed_valveOk h
    · exact State.atPick_valveOk h
    · exact State.atFlushStart_valveOk h
    · exact State.atApplyStart_valveOk h
    · exact State.atFlushEnd_valveOk h
    · exact State.atApplyEnd_valveOk h
    · exact State.atRelease_valveOk h

/-! ### The tracker -/

theorem State.pitchLoss_valveOk {s : State} (h : s.valveOk) : s.pitchLoss.valveOk :=
  State.abortWorking_valveOk (State.valveOk_of_eq h (by simp) (by simp) (by simp)) _

theorem State.measure_valveOk {s : State} (h : s.valveOk) (t : Time) : (s.measure t).valveOk := by
  simp only [State.measure]
  have key : ∀ m, (s.takePeriod m).valveOk := fun m => by
    simp only [State.takePeriod, State.lockedUpdate]
    (repeat' split) <;>
      first
        | exact h
        | exact State.pitchLoss_valveOk h
        | exact State.valveOk_of_eq h (by simp) (by simp) (by simp)
  split
  · exact h
  · split
    · exact State.withTracker_valveOk h _
    · exact State.withTracker_valveOk (key _) _

theorem State.countedPulse_valveOk {s : State} (h : s.valveOk) (t : Time) : (s.countedPulse t).valveOk :=
  State.handBoundaries_valveOk
    (State.withTracker_valveOk (State.measure_valveOk (State.withTracker_valveOk h _) t) _) _

theorem State.indexMark_valveOk {s : State} (h : s.valveOk) : s.indexMark.valveOk := by
  simp only [State.indexMark]
  (repeat' split) <;>
    first
      | exact State.withTracker_valveOk
          (State.abortIndex_valveOk (State.countHead_valveOk (State.withTracker_valveOk h _) _)) _
      | exact State.withTracker_valveOk h _

theorem State.phaseMoves_valveOk {s : State} (h : s.valveOk) : s.phaseMoves.valveOk :=
  State.handBoundaries_valveOk (State.valveOk_of_eq h (by simp) (by simp) (by simp)) _

/-! ### Notices and commands -/

theorem State.setRoster_valveOk {s : State} (h : s.valveOk) (p : Nat) (st : RosterState) :
    (s.setRoster p st).valveOk :=
  ⟨h.commanded, h.flushing, h.cycling, h.attachment, h.uncounted, h.ticking, h.below, h.bounded⟩

theorem State.frameOver_valveOk {s : State} (h : s.valveOk) : s.frameOver.valveOk :=
  State.valveOk_of_eq h (by simp) (by simp) (by simp)

theorem State.forgetAwaited_valveOk {s : State} (h : s.valveOk) : s.forgetAwaited.valveOk :=
  State.valveOk_of_eq h (by simp) (by simp) (by simp)

@[simp] theorem State.testCommand_cycle (s : State) (a : Address) (m : BitVec 32) (op arg : Byte) :
    (s.testCommand a m op arg).seq.cycle = s.seq.cycle ∧ (s.testCommand a m op arg).steam = s.steam := by
  suffices h : ∀ u, s.testCommand a m op arg = u → u.seq.cycle = s.seq.cycle ∧ u.steam = s.steam from h _ rfl
  intro u hu
  simp only [State.testCommand, State.testOp, State.carryOut, State.opSelectBank, State.opLockAction] at hu
  (repeat' split at hu) <;> subst hu <;> simp

/-! ### The closing unit -/

theorem State.takeReport_valveOk {s : State} (h : s.valveOk)
    (p : ClosingReport) : (s.takeReport p).valveOk := by
  have h0 : (s.onRecord fun r => r.report p).valveOk := State.valveOk_of_eq h rfl rfl rfl
  simp only [State.takeReport]
  (repeat' split)
  · exact h0
  · exact State.valveOk_steams h0 (by simp) (by simp) (Or.inr rfl)
  · obtain ⟨h1, h2⟩ := State.shutRequest_valveOk h0 .abort
    exact State.valveOk_recycle h1 h2 (by simp) (by simp) (Or.inr rfl)
  · exact h

theorem State.unitTakes_valveOk {s : State} (h : s.valveOk) (e : SampleEvent) :
    (s.unitTakes e).1.valveOk := by
  obtain ⟨c, n, hu⟩ := s.unitTakes_sampled e
  have h0 : ((s.withClosing c).countHead fun _ => n).valveOk := State.valveOk_of_eq h rfl rfl rfl
  rcases hu with hu | hu <;> rw [hu]
  · exact h0
  · exact (State.shutRequest_valveOk h0 .engage).1

theorem State.takeSample_valveOk {s : State} (h : s.valveOk) (e : SampleEvent) : (s.takeSample e).valveOk :=
  State.takeReport_valveOk (State.unitTakes_valveOk h e) _

/-- A sample event ahead of a command leaves the law to the command. -/
theorem State.afterSample_valveOk {s : State} (h : s.valveOk) (e : Option SampleEvent) (f : State → State)
    (hf : ∀ x : State, x.valveOk → (f x).valveOk) : (s.afterSample e f).valveOk := by
  cases e with
  | none => exact hf _ h
  | some e => exact State.takeReport_valveOk (hf _ (State.unitTakes_valveOk h e)) _

/-! ### The turret and run-line commands -/

theorem State.takePulse_valveOk {s : State} (h : s.valveOk) (t : Time) (jar cap : Bool) :
    (s.takePulse t jar cap).valveOk := by
  have h0 : (s.withPins { s.pins with jarPresent := jar, capPresent := cap }).valveOk :=
    State.valveOk_of_eq h rfl rfl rfl
  simp only [State.takePulse]
  (repeat' split)
  · exact State.indexMark_valveOk h0
  · exact State.countHead_valveOk h0 _
  · exact State.countedPulse_valveOk h0 t
  · exact h0

theorem State.takeLossDeadline_valveOk {s : State} (h : s.valveOk) : s.takeLossDeadline.valveOk := by
  simp only [State.takeLossDeadline]
  (repeat' split) <;> first | exact h | exact State.pitchLoss_valveOk h

theorem State.takePhase_valveOk {s : State} (h : s.valveOk) (cap : Bool) : (s.takePhase cap).valveOk := by
  have h0 : (s.withPins { s.pins with capPresent := cap }).valveOk := State.valveOk_of_eq h rfl rfl rfl
  simp only [State.takePhase]
  split
  · exact State.phaseMoves_valveOk h0
  · exact h0

theorem State.takeRunFall_valveOk {s : State} (h : s.valveOk) : s.takeRunFall.valveOk := by
  have h0 : (s.withPins { s.pins with run := false }).valveOk := State.valveOk_of_eq h rfl rfl rfl
  simp only [State.takeRunFall]
  split
  · exact State.abortWorking_valveOk (State.withTracker_valveOk h0 _) _
  · exact h0

end Sys2Proof.Machine
end

