-- ==== Sys2Proof/Tests/Slice0.lean ====
section
/-! SUPPORT. The model's own tests. Expected values come from the worked examples of spec/, whose settings
(sections 2.11, 5.8, 5.11, 8.8 and 9.8) are the fixtures below. Each `witness_` theorem shows a state and
operands that meet the hypotheses of the statement it is named after, clause by clause. -/

namespace Sys2Proof.Tests
open Sys2Proof Sys2Proof.Machine

-- The kernel checks of this file run one after another: at once, their stacks take too much memory.
set_option Elab.async false

/-! ## Fixtures -/

/-- The state that a command leaves. -/
def after (c : Instr) (s : State) : State :=
  match exec c s with
  | .next u => u
  | _ => s

/-- The header of sections 1.8, 2.11, 8.8 and 9.8. -/
def header : Header :=
  { formatId := 1, n := 12, pick := 300, flushStart := 600, applyStart := 1100, flushEnd := 1300,
    applyEnd := 1992, release := 2100, k := 4, qn := 40, settleMs := 10, rosterMs := 400, pAmb := 1013,
    initialBank := 1, dTravel := 8000, w := 60, rRead := 40, gGate := 400, pulseMs := 30, nStop := 4,
    m := 3, storedSignature := 0 }

/-- The purge table of section 5.8. -/
def purge : List (Nat × Nat) :=
  [(0, 1024), (500, 960), (1000, 880), (2000, 720), (3000, 600), (4000, 510), (6000, 400), (9000, 330)]

/-- Bank 1 of sections 2.11, 4.10, 5.8, 5.11, 7.8 and 9.8. -/
def bank1 : Bank :=
  { marker := 0x5A, doseTarget := 3000, trimStep := 100, trimMax := 400, trimMargin := 20,
    defaultTemp := 850, tEngage := 60, tFinal := 250, tHold := 120, spinSpeed := 400, sMax := 12288,
    aMin := 600, aMax := 1400, tCool := 200, vMin := 780, fallbackMargin := 30, deviation := 25,
    purge := purge, d0 := 30, gain := 181 }

/-- An OPERATING node at `a` whose blocks have just started, with bank 1 usable. -/
def node (role : Role) (a : Address) : State :=
  { State.reset with
    pins := { State.reset.pins with run := true }
    node := { Node.reset with mode := .operating, onCrystal := true, role := role, address := a }
    config := { ConfigUnit.reset with
      header := header, banks := ⟨Bank.unread, bank1, Bank.unread, Bank.unread⟩
      usable := ⟨false, true, false, false⟩ }
    link := { Link.reset with state := .active } }

/-- E of section 1.8. -/
abbrev pitch : Nat := 83221

/-- The head of section 2.11: LOCKED at pocket `p`, whose pulse came at time 0. -/
def head (p : Nat) : State :=
  { node .head 5 with
    tracker := { Tracker.reset with
      pocket := p, revolution := 412, indexKnown := true, pitch := some pitch, tLast := some 0
      lastPulse := some 0, lock := .locked }
    seq := { Sequencer.reset with activeBank := 1 }
    steam := { Steam.reset with roster := [⟨3, .closed⟩, ⟨4, .closed⟩, ⟨6, .closed⟩] }
    closing := { Closing.reset with
      ready := true, lastTorque := some 3, lastAngle := some 62000, deadline := 600 }
    verdicts := { VerdictList.reset with trims := ⟨0, 200, 0, 0⟩ } }

/-- The record of section 2.11 as INFEED opens it. -/
def opened : Record := Record.opened 412 1 true

/-- The head at pocket `p` with an open cycle in `c`. -/
def cycling (p : Nat) (c : CycleState) : State :=
  { head p with seq := { (head p).seq with cycle := c, record := some opened } }

/-- The flush of section 3.7 with the valve in `v` and the dose at `d`, T = 3200. -/
def flushing (v : ValveState) (d : Nat) : State :=
  { cycling 7 .flushing with
    steam := { (head 7).steam with
      valve := v, commandOpen := v == .opening || v == .opened, flush := .opened, attached := true
      target := some 3200, dose := d } }

/-- The limits of section 4.10. -/
def limits : ClosingLimits := ⟨60, 250, 120, 400, 12288, 600, 1400⟩

/-- The closing of section 4.10 in `sub`, the last good sample having read `angle` at A = `a`. -/
def closing (sub : SubPhase) (phase : ClosingState) (angle : Half) (a : Nat) : State :=
  { cycling 9 (.closing sub) with
    seq := { (cycling 9 (.closing sub)).seq with reachedClosing := true }
    closing := { (head 9).closing with
      phase := phase, command := .spin 400, limits := some limits, prevAngle := some angle
      lastAngle := some angle, lastTorque := some 115, angle := BitVec.ofNat 32 a
      engageAngle := some 5230, peakTaken := true } }

/-- A drive sample with the parity bit that makes it good. -/
def sample (torque angle : Nat) : DriveSample :=
  let ones := (List.range 12).countP (fun i => torque.testBit i) +
    (List.range 16).countP (fun i => angle.testBit i)
  { torque := BitVec.ofNat 12 torque, angle := BitVec.ofNat 16 angle, status := .ok
    parity := ones % 2 == 1 }

/-- The check node of sections 8.8 and 9.8 with its conveyor at `x`. -/
def check (x : Nat) : State :=
  { node .check 24 with
    transit := { Transit.reset with
      position := BitVec.ofNat 32 x, lastRev := List.replicate 12 none } }

/-- The check node with this transit list. -/
def lists (x : Nat) (es : List TransitEntry) : State :=
  { check x with transit := { (check x).transit with entries := es } }

/-- A GOOD SEAL entry of head 3, revolution 1207, with V_pred 790 (section 9.8, jar A). -/
def entryA : SealEntry :=
  { head := 3, revolution := 1207, capVerdict := 0, vPred := 790, bank := 1, sigMatch := true }

/-- The check node with this reading slot. -/
def slotted (x : Nat) (slot : Slot) : State :=
  { check x with reject := { RejectUnit.reset with slot := slot } }

/-- The state with these notices waiting in its transmit queue. -/
def waiting (s : State) (ns : List Notice) : State :=
  { s with link := { s.link with queue := ns.map fun n => ⟨n, false⟩ } }

/-- The state with its front notice in flight and these waiting behind it. -/
def inFlight (s : State) (n : Notice) (ns : List Notice) : State :=
  { s with link := { s.link with queue := ⟨n, true⟩ :: ns.map fun n => ⟨n, false⟩ } }

/-- What a queue holds, in order. -/
def notices (s : State) : List Notice := s.link.queue.map (·.notice)

/-- The head with FLUSH_START five phases after PICK, both in offset 1. -/
def crowded (s : State) : State :=
  { s with config := { s.config with header := { header with flushStart := 305 } } }

/-- The head with this bank and this lock action waiting for its next INFEED. -/
def changing (s : State) (bank : Option BankId) (lock : LockAction) : State :=
  { s with seq := { s.seq with pendingBank := bank, pendingLock := lock } }

/-- The state with this record open. -/
def recording (s : State) (r : Record) : State := { s with seq := { s.seq with record := some r } }

/-! ### A programmed memory, laid out by section 10.1 -/

/-- Two-byte fields, most significant byte first. -/
def halves (ns : List Nat) : List Byte :=
  ns.flatMap fun n => [BitVec.ofNat 8 (n / 256), BitVec.ofNat 8 n]

/-- Bytes 0..447: the header with its signature, bank 1, no other bank. -/
def programmed : List Byte :=
  [1, 12] ++ halves [300, 600, 1100, 1300, 1992, 2100] ++ [4, 40, 10, 0] ++ halves [400, 1013] ++ [1, 0]
    ++ halves [8000] ++ [60, 0] ++ halves [40, 400] ++ [30, 4, 3] ++ List.replicate 27 0 ++ halves [50322]
    ++ List.replicate 96 0
    ++ [0x5A, 0] ++ halves [3000, 100, 400, 20, 850, 60, 250, 120, 400, 12288, 600, 1400, 200, 780, 30, 25]
    ++ halves (purge.flatMap fun p => [p.1, p.2]) ++ halves [30, 181] ++ List.replicate 26 0
    ++ List.replicate 192 0

/-- The persistent area that the save of section 11.5 writes, with this marker. -/
def saved (marker : Byte) : List Byte :=
  [marker, 1] ++ halves [0, 300, 0, 0, 0, 52001, 0, 50900, 0, 7, 0, 41] ++ List.replicate 230 0

/-- The inputs of a start of the head at 5, the memory as it is and the crystal not ready yet. -/
def boots : StartInputs :=
  { roleHigh := false, addr := 5, crystalReady := false, memoryAnswers := true, memoryChanges := [] }

/-- The values that the save of section 11.5 writes. -/
def persistent : Persistent :=
  { marker := 0xA5, activeBank := 1, trims := ⟨0, 300, 0, 0⟩, lifetime := ⟨52001, 50900, 7, 41⟩ }

/-- The programmed memory. -/
def image (marker : Byte) : List Byte := programmed ++ saved marker

/-- A memory that holds these bytes from address 0 on. -/
def holding (bs : List Byte) : Memory := bs.zipIdx.map fun b => (b.2, b.1)

/-- The CRC, each step evaluated before the next. -/
def crcForced : Half → List Bool → Half
  | c, [] => c
  | c, b :: bs => if c = c then crcForced (crcStep c b) bs else c

theorem crcForced_eq (bs : List Bool) (c : Half) : crcForced c bs = bs.foldl crcStep c := by
  induction bs generalizing c with
  | nil => rfl
  | cons b bs ih => simp [crcForced, ih]

theorem signature_image (marker : Byte) : configSignature (image marker) = 50322#16 := by
  have h : crcForced 0xFFFF#16 (bitsOfBytes (programmed.take 62 ++ (programmed.drop 64).take 384)) =
      50322#16 := by decide +kernel
  rw [crcForced_eq] at h
  have e1 : (image marker).take 62 = programmed.take 62 := by
    rw [image, List.take_append_of_le_length (by decide +kernel)]
  have e2 : ((image marker).drop 64).take 384 = (programmed.drop 64).take 384 := by
    rw [image, List.drop_append_of_le_length (by decide +kernel),
      List.take_append_of_le_length (by decide +kernel)]
  rw [configSignature, e1, e2]
  exact h

theorem bytes_valid : Memory.slice (holding (image 0xA5)) 0 704 = image 0xA5 := by decide +kernel
theorem bytes_invalid : Memory.slice (holding (image 0)) 0 704 = image 0 := by decide +kernel

theorem header_image (marker : Byte) :
    readHeader ((image marker).take 64) = { header with storedSignature := 50322 } := by
  rw [image, List.take_append_of_le_length (by decide +kernel)]
  decide +kernel

theorem bank_image (marker : Byte) : readBank (((image marker).drop 160).take 96) = bank1 := by
  rw [image, List.drop_append_of_le_length (by decide +kernel),
    List.take_append_of_le_length (by decide +kernel)]
  decide +kernel

/-- A head whose memory holds the image goes past step 5 without a failure. -/
theorem started_image {m : Memory} {u : State} {c : ResetCause} {marker : Byte}
    (held : Memory.slice m 0 704 = image marker) (h : u.Started m c boots) :
    u.node.halts = false := by
  have bytes : startBytes m boots = image marker := held
  have header := h.header
  have usable := h.usable 1
  have signature := h.signature
  rw [bytes, header_image] at header
  rw [show u.config.banks.get 1 = bank1 from (h.banks 1).trans (by rw [bytes]; exact bank_image marker)]
    at usable
  rw [bytes, signature_image] at signature
  have bad := h.configBad
  have straps := h.strapsBad
  simp only [headerPasses, usableNumber, header, signature] at bad usable
  have good : u.config.usable.get 1#2 = true := usable.trans (by decide)
  have bad' : u.node.configBad = false := by
    rw [bad]
    simp only [Tests.header]
    rw [show BitVec.ofNat 2 1 = 1#2 from rfl, good]
    decide
  rw [bad', header] at straps
  rw [Node.halts, bad', straps]
  decide

/-- The state before a reset whose memory holds the image. -/
def programmedNode (marker : Byte) : State := { State.reset with memory := holding (image marker) }

theorem starts_image {marker : Byte} (held : Memory.slice (holding (image marker)) 0 704 = image marker) :
    ∃ u, exec (.resetLine boots 0) (programmedNode marker) = .next u ∧ u.node.halts = false :=
  ⟨_, rfl, started_image held
    (State.startSequence_started (s := programmedNode marker) boots .pin rfl rfl).1⟩

/-! ## Operands that no command carries -/

theorem test_wellFormed_power_on_cut :
    Instr.wellFormed (.powerOnReset boots 27 ⟨false, true, false⟩) = false ∧
    Instr.wellFormed (.powerOnReset boots 26 ⟨false, true, false⟩) = true := by decide

theorem test_wellFormed_reset_line_cut :
    Instr.wellFormed (.resetLine boots 27) = false ∧
    Instr.wellFormed (.resetLine boots 26) = true := by decide

theorem test_wellFormed_peer :
    Instr.wellFormed (.rosterExpiry 0 24) = false ∧ Instr.wellFormed (.rosterExpiry 0 23) = true := by decide

theorem test_wellFormed_frame :
    Instr.wellFormed (.rxFrameError 0 (List.replicate 216 true)) = false ∧
    Instr.wellFormed (.rxFrameError 0 (List.replicate 215 true)) = true := by decide +kernel

theorem test_wellFormed_op :
    Instr.wellFormed (.commandOpUnknown 0 30 0 1 0) = false ∧
    Instr.wellFormed (.commandOpUnknown 0 30 0 7 0) = false ∧
    Instr.wellFormed (.commandOpUnknown 0 30 0 8 0) = true := by decide

/-! ## Witnesses: the queue, start and power warning -/

theorem witness_StepRunsFrontCommand :
    { head 5 with pending := [.frameStart 0] }.pending = Instr.frameStart 0 :: [] ∧
    State.reset.pending = [] := ⟨rfl, rfl⟩

/-- What `State.phaseReaches` asks for. -/
theorem reaches {s : State} {t : Time} {bs : List Boundary} (h : s.headRuns = true)
    (k : s.tracker.indexKnown = true)
    (b : s.config.header.reachedBetween
      (pocketOffset s.config.header.n s.own s.tracker.pocket * 256 + (s.enter t).tracker.phase)
      (pocketOffset s.config.header.n s.own s.tracker.pocket * 256 + (s.enter t).tracker.phaseAt t) = bs) :
    s.phaseReaches t bs := ⟨h, k, b⟩

/-- At 14,303 µs PICK is not yet reached (section 1.8). -/
theorem witness_TakingACommand :
    (check 0).headRuns = false ∧ (head 6).headRuns = true ∧ (head 6).tracker.phase ≤ 255 ∧
    header.ordered = true ∧ (head 6).tracker.indexKnown = true ∧
    header.reachedBetween (256 + (head 6).tracker.phase) (256 + (head 6).tracker.phaseAt 14303) = [] ∧
    (head 6).tracker.lock ≠ .stopped ∧ (head 6).tracker.pitch = some pitch ∧
    (head 6).tracker.tLast = some 0 ∧ 0 ≤ since 0 0 ∧
    (head 6).tracker.phase ≤ min 255 ((since 0 0).toNat * 256 / pitch) ∧
    State.reset.tracker.pitch = none := by decide

/-- PICK at phase 44 and FLUSH_START at phase 49 of one pocket, come to in one change. -/
theorem witness_TakingACommand_boundaries :
    (crowded (cycling 6 .loading)).phaseReaches 15930 [.pick, .flushStart] ∧
    (crowded (cycling 6 .loading)).phaseReaches 14304 [.pick] ∧
    (head 6).phaseReaches 14303 [] ∧ (head 6).seq.cycle.isClosing = false ∧
    (cycling 9 .ended).seq.cycle.isClosing = false :=
  ⟨reaches rfl rfl (by decide), reaches rfl rfl (by decide), reaches rfl rfl (by decide), rfl, rfl⟩

theorem witness_ResetStarts :
    boots.crystalReady = false ∧ LineLevels.pwarn ⟨false, true, false⟩ = false ∧
    State.reset.pins.pwarn = false := by decide

/-- The head of section 11.5 while its save runs, the warning still asserted or not. -/
def saving (pwarn : Bool) : State :=
  { head 5 with
    pins := { (head 5).pins with pwarn := pwarn }
    node := { (head 5).node with mode := .saved, saving := saveWrites persistent } }

theorem memoryOk_saving : (saving true).memoryOk := ⟨by decide, by decide +kernel⟩

theorem witness_ResetUnderWarning :
    LineLevels.pwarn ⟨true, true, false⟩ = true ∧ (saving true).pins.pwarn = true ∧
    (saving true).memoryOk ∧ (saving true).node.saving = saveWrites persistent ∧ 25 < 26 ∧
    boots.memoryChanges = [] :=
  ⟨rfl, rfl, memoryOk_saving, rfl, by decide, rfl⟩

/-- A head whose memory was never written fails the header's checks. -/
theorem started_blank {m : Memory} {u : State} {c : ResetCause} (hm : m = [])
    (h : u.Started m c boots) : u.node.halts = true := by
  subst hm
  have fields : (readHeader ((startBytes [] boots).take 64)).fieldsOk = false := by decide +kernel
  have bad := h.configBad
  rw [headerPasses, h.header, fields] at bad
  simp only [Bool.and_false, Bool.false_and, Bool.not_false] at bad
  rw [Node.halts, bad, Bool.true_or]

theorem persistent_valid : readPersistent (((image 0xA5).drop 448).take 256) = persistent := by
  decide +kernel

theorem persistent_invalid :
    readPersistent (((image 0).drop 448).take 256) = { persistent with marker := 0 } := by decide +kernel

theorem startPersistent_image {marker : Byte}
    (held : Memory.slice (holding (image marker)) 0 704 = image marker) :
    startPersistent (programmedNode marker).memory boots =
      readPersistent (((image marker).drop 448).take 256) := by
  rw [startPersistent,
    show startBytes (programmedNode marker).memory boots = image marker from held]

theorem starts_blank :
    ∃ u, exec (.resetLine boots 0) State.reset = .next u ∧ u.node.halts = true :=
  ⟨_, rfl, started_blank (m := State.reset.memory) rfl
    (State.startSequence_started (s := State.reset) boots .pin rfl rfl).1⟩

/-- An empty memory halts the node, the memory of section 11.5 does not, its marker valid or not. -/
theorem witness_PersistentAreaAtStart :
    (∃ u, exec (.resetLine boots 0) State.reset = .next u ∧ u.node.halts = true) ∧
    (∃ u, exec (.resetLine boots 0) (programmedNode 0xA5) = .next u ∧ u.node.halts = false) ∧
    (startPersistent (programmedNode 0xA5).memory boots).marker = 0xA5#8 ∧
    (∃ u, exec (.resetLine boots 0) (programmedNode 0) = .next u ∧ u.node.halts = false) ∧
    (startPersistent (programmedNode 0).memory boots).marker ≠ 0xA5#8 ∧
    (programmedNode 0xA5).pins.pwarn = false ∧ (programmedNode 0xA5).node.saving = [] := by
  have valid := bytes_valid
  have invalid := bytes_invalid
  rw [startPersistent_image valid, startPersistent_image invalid, persistent_valid, persistent_invalid]
  exact ⟨starts_blank, starts_image valid, rfl, starts_image invalid, by decide, rfl, rfl⟩

/-- A node in the crystal wait of step 6, its checks passed or not. -/
def waits (s : State) (bad : Bool) : State :=
  { s with
    node := { s.node with mode := .start, awaitingCrystal := true, onCrystal := false, configBad := bad }
    link := { s.link with state := .starting } }

theorem witness_CrystalStartsAHead :
    let s := waits (head 5) false
    let c := waits (check 0) false
    s.node.mode = .start ∧ s.node.awaitingCrystal = true ∧ s.node.role = .head ∧ s.node.halts = false ∧
    s.link.state = .starting ∧ s.link.queue = [] ∧
    c.node.mode = .start ∧ c.node.awaitingCrystal = true ∧ c.node.role = .check ∧ c.node.halts = false ∧
    c.link.state = .starting ∧ c.link.queue = [] := by decide

theorem witness_CrystalWaitEnds :
    let s := waits (head 5) false
    let c := waits (check 0) false
    s.node.mode = .start ∧ s.node.awaitingCrystal = true ∧ s.node.role = .head ∧ s.node.halts = false ∧
    c.node.mode = .start ∧ c.node.awaitingCrystal = true ∧ c.node.role = .check ∧ c.node.halts = false ∧
    ¬ 0 ≤ since 49999#32 50000#32 ∧ 0 ≤ since 50000#32 50000#32 := by decide

theorem witness_FailedStartHalts :
    let s := waits (head 5) true
    let off := { s with link := { s.link with state := .off } }
    s.node.mode = .start ∧ s.node.awaitingCrystal = true ∧ s.node.halts = true ∧
    s.link.state = .starting ∧ s.link.queue = [] ∧
    off.node.mode = .start ∧ off.node.awaitingCrystal = true ∧ off.node.halts = true ∧
    off.link.state = .off ∧ 0 ≤ since 50000#32 50000#32 := by decide

theorem witness_WarningSavesAHead :
    let s := flushing .opened 1200
    let c := closing .seek .seek 62000 0
    let done (v : CapVerdict) := recording (cycling 0 .ended) { opened with capVerdict := some v }
    s.headRuns = true ∧ s.pins.pwarn = false ∧ s.seq.record = some opened ∧
    s.seq.cycle ≠ .idle ∧ s.seq.cycle ≠ .ended ∧
    c.headRuns = true ∧ c.pins.pwarn = false ∧ c.seq.record = some opened ∧
    c.seq.cycle ≠ .idle ∧ c.seq.cycle ≠ .ended ∧
    (head 5).headRuns = true ∧ (head 5).pins.pwarn = false ∧ (head 5).seq.cycle = .idle ∧
    (done .aborted).headRuns = true ∧ (done .aborted).pins.pwarn = false ∧
    (done .aborted).seq.cycle = .ended ∧
    (done .aborted).seq.record = some { opened with capVerdict := some .aborted } ∧
    (done .noCap).headRuns = true ∧ (done .noCap).pins.pwarn = false ∧ (done .noCap).seq.cycle = .ended ∧
    (done .noCap).seq.record = some { opened with capVerdict := some .noCap } ∧
    CapVerdict.noCap ≠ .aborted ∧ (done .noCap).steam.flush ≠ .opened := by decide

theorem witness_WarningElsewhere :
    let halted := { head 5 with node := { (head 5).node with mode := .halted } }
    let w := waits (head 5) false
    (saving true).pins.pwarn = true ∧
    (check 0).pins.pwarn = false ∧ (check 0).checkRuns = true ∧
    halted.pins.pwarn = false ∧ halted.node.mode = .halted ∧
    w.pins.pwarn = false ∧ w.node.mode = .start ∧ w.node.role = .head ∧
    (saving false).pins.pwarn = false ∧ (saving false).node.mode = .saved := by decide

theorem witness_SaveReadsBack :
    (saving true).memoryOk ∧ (saving true).node.mode = .saved ∧
    (saving true).node.saving = saveWrites persistent ∧ (saving true).pins.pwarn = true ∧
    (447 < 448 ∨ 474 ≤ 447) ∧ (474 < 448 ∨ 474 ≤ 474) :=
  ⟨memoryOk_saving, rfl, rfl, rfl, by decide, by decide⟩

theorem witness_NegationRestarts :
    let done := { saving true with node := { (saving true).node with saving := [] } }
    boots.crystalReady = false ∧ done.node.mode = .saved ∧ done.pins.pwarn = true ∧
    done.node.saving = [] ∧
    (saving true).node.mode = .saved ∧ (saving true).pins.pwarn = true ∧ (saving true).node.saving ≠ [] ∧
    (saving false).node.mode = .saved ∧ (saving false).pins.pwarn = false ∧
    (saving false).node.saving ≠ [] := by decide

/-! ## Witnesses: turret position -/

/-- A pulse 4,000 µs or more after the last pitch pulse is counted. -/
theorem counted {s : State} {t l : Time} (h : s.tracker.lastPulse = some l)
    (late : ¬ (0 ≤ since t l ∧ since t l < 4000)) : ¬ s.closePulseAt t := by
  rintro ⟨l', h', h1, h2⟩
  rw [h] at h'
  cases h'
  exact late ⟨h1, h2⟩

/-- The head with its mark taken, or its index not known yet. -/
def marked (s : State) (taken known : Bool) : State :=
  { s with tracker := { s.tracker with markTaken := taken, indexKnown := known } }

/-- The head in ACQUIRE with this estimate, last pulse time and in-window count. -/
def acquiring (e : Option Nat) (t0 : Option Time) (count : Nat) : State :=
  { head 5 with tracker := { (head 5).tracker with
      lock := .acquire, pitch := e, tLast := t0, lastPulse := t0, inWindow := count } }

/-- The head at `p` with its index unknown, after `miss` misses. -/
def missing (p miss : Nat) (known : Bool) (c : CycleState) : State :=
  { cycling p c with tracker := { (head p).tracker with miss := miss, indexKnown := known } }

/-- Close pulses lie from the pitch pulse to 3,999 µs after it. -/
theorem witness_ClosePulses :
    (head 0).headRuns = true ∧ (head 0).closePulseAt 0 ∧ (head 0).closePulseAt 3999 ∧
    (marked (head 0) true true).tracker.markTaken = true ∧
    (marked (head 3) false false).tracker.markTaken = false ∧
    (marked (head 3) false false).tracker.indexKnown = false ∧
    (head 0).tracker.markTaken = false ∧ (head 0).tracker.indexKnown = true ∧
    (head 0).tracker.pocket = 0 :=
  ⟨rfl, ⟨0, rfl, by decide, by decide⟩, ⟨0, rfl, by decide, by decide⟩, rfl, rfl, rfl, rfl, rfl, rfl⟩

theorem witness_IndexMismatchAborts :
    (cycling 1 .flushing).headRuns = true ∧ (cycling 1 .flushing).closePulseAt 0 ∧
    (cycling 1 .flushing).closePulseAt 3999 ∧
    (cycling 1 .flushing).tracker.markTaken = false ∧ (cycling 1 .flushing).tracker.indexKnown = true ∧
    (cycling 1 .flushing).tracker.pocket ≠ 0 ∧ (cycling 1 .flushing).seq.cycle ≠ .idle ∧
    (head 1).headRuns = true ∧ (head 1).closePulseAt 3999 ∧ (head 1).seq.cycle = .idle ∧
    (cycling 1 .ended).headRuns = true ∧ (cycling 1 .ended).closePulseAt 3999 ∧
    (cycling 1 .ended).seq.cycle ≠ .idle :=
  ⟨rfl, ⟨0, rfl, by decide, by decide⟩, ⟨0, rfl, by decide, by decide⟩, rfl, rfl, by decide, by decide,
   rfl, ⟨0, rfl, by decide, by decide⟩, rfl, rfl, ⟨0, rfl, by decide, by decide⟩, by decide⟩

/-- The ranges of R7 and of the window of pulse 3 in section 1.7 at their ends. -/
theorem witness_CountedPulseUnlocked :
    (head 5).headRuns = true ∧ ¬ (head 5).closePulseAt 4000 ∧
    (marked (acquiring none none 0) false false).tracker.lock ≠ .locked ∧
    (marked (acquiring none none 0) false false).tracker.indexKnown = false ∧
    { (head 5).tracker with lock := .stopped }.lock = LockState.stopped ∧
    (acquiring none none 0).tracker.lock = .acquire ∧ (acquiring none none 0).tracker.tLast = none ∧
    (acquiring none (some 0) 0).tracker.tLast = some 0 ∧
    (acquiring none (some 0) 0).tracker.pitch = none ∧
    ¬ (50000 ≤ since 49999 0 ∧ since 49999 0 ≤ 4000000) ∧
    ¬ (50000 ≤ since 4000001 0 ∧ since 4000001 0 ≤ 4000000) ∧
    (50000 ≤ since 50000 0 ∧ since 4000000 0 ≤ 4000000) ∧
    (acquiring (some 80000) (some 0) 0).tracker.pitch = some 80000 ∧
    inWindowOf 80000 (since 60000 0) ∧ inWindowOf 80000 (since 100000 0) ∧
    ¬ inWindowOf 80000 (since 59999 0) ∧ ¬ inWindowOf 80000 (since 100001 0) ∧
    (acquiring (some 80000) (some 0) 6).tracker.inWindow + 1 < 8 ∧
    8 ≤ (acquiring (some 80000) (some 0) 7).tracker.inWindow + 1 := by
  unfold inWindowOf
  exact ⟨rfl, counted (l := 0) rfl (by decide), by decide, rfl, rfl, rfl, rfl, rfl, rfl, by decide,
    by decide, by decide, rfl, by decide, by decide, by decide, by decide, by decide, by decide⟩

/-- A pulse from offset 1 with the phase at 0 reaches PICK and FLUSH_START, one from offset 11 INFEED alone, and
with the index unknown none. -/
theorem witness_PulseBoundaries :
    let s := crowded (acquiring none none 0)
    let at6 := { s with tracker := { s.tracker with pocket := 6 } }
    at6.headRuns = true ∧ at6.tracker.lock ≠ .locked ∧ at6.tracker.indexKnown = true ∧
    at6.pulseBoundaries 4000 = [.pick, .flushStart] ∧
    ({ s with tracker := { s.tracker with pocket := 4 } } : State).pulseBoundaries 4000 = [.infeed] ∧
    (marked at6 false false).pulseBoundaries 4000 = [] := by decide

theorem witness_CountedPulseLocked :
    (head 5).headRuns = true ∧ ¬ (head 5).closePulseAt 62416 ∧ (head 5).tracker.lock = .locked ∧
    (head 5).tracker.pitch = some pitch ∧ (head 5).tracker.tLast = some 0 ∧
    inWindowOf pitch (since 62416 0) ∧ inWindowOf pitch (since 104026 0) ∧
    ¬ inWindowOf pitch (since 62415 0) ∧ ¬ inWindowOf pitch (since 104027 0) ∧
    (missing 5 1 true .idle).tracker.miss < 2 ∧ 2 ≤ (missing 5 2 true .idle).tracker.miss ∧
    (missing 5 2 false .idle).tracker.indexKnown = false ∧
    (missing 5 2 true .idle).seq.cycle.working = false ∧
    (missing 5 2 true .ended).seq.cycle.working = false ∧
    (missing 5 2 true .flushing).tracker.indexKnown = true ∧
    (missing 5 2 true .flushing).seq.cycle.working = true := by
  unfold inWindowOf
  exact ⟨rfl, counted (l := 0) rfl (by decide), rfl, rfl, rfl, by decide, by decide, by decide, by decide,
    by decide, by decide, rfl, rfl, rfl, rfl, rfl⟩

theorem witness_PitchLossDeadline :
    (head 5).headRuns = true ∧ (head 5).tracker.lock = .locked ∧ (head 5).tracker.pitch = some pitch ∧
    (head 5).tracker.tLast = some 0 ∧
    ¬ 0 ≤ since 332883#32 (0#32 + BitVec.ofNat 32 (4 * pitch)) ∧
    0 ≤ since 332884#32 (0#32 + BitVec.ofNat 32 (4 * pitch)) ∧
    (head 5).seq.cycle.working = false ∧ (cycling 5 .flushing).seq.cycle.working = true := by decide

theorem witness_RunLineChanges :
    (head 5).headRuns = true ∧ (head 5).seq.cycle.working = false ∧
    (cycling 7 .flushing).headRuns = true ∧ (cycling 7 .flushing).seq.cycle.working = true := by decide

/-! ## Witnesses: the seal cycle -/

/-- The head at offset 11 with its next pulse due at pocket 5, run line as given. -/
def infeeding (run : Bool) (c : CycleState) : State :=
  { cycling 4 c with pins := { (head 4).pins with run := run } }

/-- No boundary of section 1.8 stands in the last offset. -/
theorem infeedAlone_head {s : State} (h : s.headRuns = true) (o : s.own = 5)
    (n : s.config.header = header) (p : s.tracker.pocket = 4) (k : s.tracker.indexKnown = true)
    (l : s.tracker.lastPulse = some 0) (ph : (s.enter 83221).tracker.phase = 255) :
    s.infeedAlone 83221 :=
  ⟨h, counted l (by decide), k, by rw [o, n, p]; decide, by rw [o, n, p, ph]; decide⟩

theorem witness_InfeedChecks :
    (infeeding true .idle).infeedAlone 83221 ∧ (infeeding true .idle).pins.run = true ∧
    (infeeding true .idle).seq.cycle = .idle ∧ (infeeding true .idle).seq.pendingBank = none ∧
    (infeeding true .idle).seq.pendingLock = .none :=
  ⟨infeedAlone_head rfl rfl rfl rfl rfl rfl (by decide), rfl, rfl, rfl, rfl⟩

theorem witness_InfeedTakesWhatWaits :
    (changing (infeeding true .idle) (some 1) .lock).infeedAlone 83221 ∧
    (changing (infeeding true .idle) (some 1) .lock).pins.run = true ∧
    (changing (infeeding true .idle) (some 1) .lock).seq.cycle = .idle ∧
    (changing (infeeding true .idle) (some 1) .lock).seq.pendingBank = some 1 ∧
    (changing (infeeding true .idle) none .restore).infeedAlone 83221 ∧
    (changing (infeeding true .idle) none .restore).seq.pendingLock = .restore ∧
    (infeeding false .idle).infeedAlone 83221 ∧ (infeeding false .idle).pins.run = false ∧
    (infeeding false .idle).seq.cycle = .idle :=
  ⟨infeedAlone_head rfl rfl rfl rfl rfl rfl (by decide), rfl, rfl, rfl,
   infeedAlone_head rfl rfl rfl rfl rfl rfl (by decide), rfl,
   infeedAlone_head rfl rfl rfl rfl rfl rfl (by decide), rfl, rfl⟩

/-- A record left open: without a verdict (R26), with one, and a VOID's, the line low and high. -/
theorem witness_InfeedTakesWhatWaits_leftOpen (run : Bool) :
    (infeeding run .ended).infeedAlone 83221 ∧ (infeeding run .ended).pins.run = run ∧
    (infeeding run .ended).seq.cycle = .ended ∧ (infeeding run .ended).seq.record = some opened ∧
    (infeeding run .ended).steam.flush ≠ .opened ∧ opened.jarPresent = true ∧ opened.capVerdict = none ∧
    (recording (infeeding run .ended) (Record.opened 412 1 false)).infeedAlone 83221 ∧
    (recording (infeeding run .ended) { opened with capVerdict := some .noCap }).infeedAlone 83221 :=
  ⟨infeedAlone_head rfl rfl rfl rfl rfl rfl (by cases run <;> decide), rfl, rfl, rfl,
   by cases run <;> decide, rfl, rfl,
   infeedAlone_head rfl rfl rfl rfl rfl rfl (by cases run <;> decide),
   infeedAlone_head rfl rfl rfl rfl rfl rfl (by cases run <;> decide)⟩

/-- The times of section 1.8. -/
theorem witness_PickDecides :
    (cycling 6 .loading).phaseReaches 14304 [.pick] ∧ (cycling 6 .loading).seq.cycle = .loading ∧
    (cycling 6 .ended).phaseReaches 14304 [.pick] ∧ (cycling 6 .ended).seq.cycle ≠ .loading :=
  ⟨reaches rfl rfl (by decide), rfl, reaches rfl rfl (by decide), by decide⟩

/-- The head at `p` with its run line as given, its valve in `v` and the switch at `shown`. -/
def valves (p : Nat) (c : CycleState) (run : Bool) (v : ValveState) (shown : Bool) : State :=
  { cycling p c with
    pins := { (head p).pins with run := run, valveOpen := shown }
    steam := { (head p).steam with valve := v } }

theorem witness_FlushStartOpens :
    (head 5).headRuns = true ∧
    (valves 7 .primed true .shut false).phaseReaches 28608 [.flushStart] ∧
    (valves 7 .primed true .shut false).seq.cycle = .primed ∧
    (valves 7 .primed true .shut false).seq.record = some opened ∧
    (valves 7 .primed true .shutting true).phaseReaches 28608 [.flushStart] ∧
    (valves 7 .primed true .faultShut false).phaseReaches 28608 [.flushStart] ∧
    0 < ((head 7).bankOf opened.bank).doseTarget + (head 7).verdicts.trims.get opened.bank ∧
    (valves 7 .primed false .shut false).phaseReaches 28608 [.flushStart] ∧
    (valves 7 .primed false .shut false).pins.run = false :=
  ⟨rfl, reaches rfl rfl (by decide), rfl, rfl, reaches rfl rfl (by decide), reaches rfl rfl (by decide),
   by decide, reaches rfl rfl (by decide), rfl⟩

theorem witness_ApplyStartSeeks :
    (valves 9 .flushing true .shut false).phaseReaches 24707 [.applyStart] ∧
    (valves 9 .flushing true .shut false).seq.cycle = .flushing ∧
    (valves 9 .flushing true .shut false).seq.record = some opened ∧
    (valves 9 .flushing true .shut false).pins.run = true ∧
    (valves 9 .flushing true .shut false).closing.phase = .free ∧
    (valves 9 .flushing false .shut false).phaseReaches 24707 [.applyStart] ∧
    (valves 9 .flushing false .shut false).pins.run = false :=
  ⟨reaches rfl rfl (by decide), rfl, rfl, rfl, rfl, reaches rfl rfl (by decide), rfl⟩

/-- The flush of section 3.9 at offset 5, its closing still in SEEK. -/
def flushEnds (v : ValveState) (f : FlushState) : State :=
  { flushing v 2500 with
    tracker := (head 10).tracker
    seq := { (cycling 10 (.closing .seek)).seq with reachedClosing := true }
    steam := { (flushing v 2500).steam with flush := f } }

theorem witness_FlushEndShuts :
    (flushEnds .opened .opened).phaseReaches 6502 [.flushEnd] ∧
    (flushEnds .opened .opened).seq.cycle = .closing .seek ∧
    (flushEnds .opened .opened).steam.flush = .opened ∧ (flushEnds .opened .opened).steam.valve = .opened ∧
    (flushEnds .opening .opened).phaseReaches 6502 [.flushEnd] ∧
    (flushEnds .opening .opened).steam.valve = .opening ∧
    (flushEnds .opening .opened).pins.valveOpen = false ∧
    (flushEnds .shut .ended).phaseReaches 6502 [.flushEnd] ∧
    (flushEnds .shut .ended).steam.flush ≠ .opened :=
  ⟨reaches rfl rfl (by decide), rfl, rfl, rfl, reaches rfl rfl (by decide), rfl, rfl,
   reaches rfl rfl (by decide), by decide⟩

/-- The closing of section 4.10 with the turret at pocket `p`. -/
def closingAt (p : Nat) (sub : SubPhase) (phase : ClosingState) : State :=
  { closing sub phase 62000 0 with tracker := (head p).tracker }

theorem witness_ApplyEndUnfinished :
    (closingAt 0 .seek .seek).phaseReaches 65017 [.applyEnd] ∧
    (closingAt 0 .seek .seek).seq.cycle = .closing .seek ∧
    (closingAt 0 .seek .seek).steam.flush ≠ .opened ∧ (closingAt 0 .seek .seek).closing.phase = .seek ∧
    (closingAt 0 .tighten .tighten).phaseReaches 65017 [.applyEnd] ∧
    (closingAt 0 .tighten .tighten).seq.cycle = .closing .tighten ∧
    (closingAt 0 .tighten .tighten).steam.flush ≠ .opened ∧
    (closingAt 0 .dwell .dwell).phaseReaches 65017 [.applyEnd] ∧
    (closingAt 0 .dwell .dwell).seq.cycle = .closing .dwell ∧
    (cycling 0 .ended).phaseReaches 65017 [.applyEnd] ∧ (cycling 0 .ended).seq.cycle.isClosing = false :=
  ⟨reaches rfl rfl (by decide), rfl, by decide, rfl, reaches rfl rfl (by decide), rfl, by decide,
   reaches rfl rfl (by decide), rfl, reaches rfl rfl (by decide), rfl⟩

/-- The closing of section 4.10 in TIGHTEN at A = `a` with APPLY_END to come at 65,017 µs. -/
def tightening (a : Nat) : State :=
  { closing .tighten .tighten 2665 a with tracker := (head 0).tracker }

/-- The seating sample ahead of APPLY_END: T_final is reached at both ends of the angle band. -/
theorem witness_ApplyEndUnfinished_race :
    let angle (a : Nat) : Int :=
      ((((tightening a).closing.afterGood 65017 (sample 250 2674)).turned 2665 250 2674).angle - 5230#32).toInt
    (tightening 6201).phaseReaches 65017 [.applyEnd] ∧
    (tightening 6201).seq.cycle = .closing .tighten ∧ (tightening 6201).steam.flush ≠ .opened ∧
    sampleGood (sample 250 2674) = true ∧ (tightening 6201).closing.phase = .tighten ∧
    (tightening 6201).closing.limits = some limits ∧ (tightening 6201).closing.prevAngle = some 2665 ∧
    (tightening 6201).closing.engageAngle = some 5230 ∧
    (limits.tFinal : Int) ≤ (sample 250 2674).torque.toInt ∧
    angle 5821 = limits.aMin ∧ angle 6621 = limits.aMax :=
  ⟨reaches rfl rfl (by decide), rfl, by decide, by decide, rfl, rfl, rfl, rfl, by decide, by decide,
   by decide⟩

theorem witness_ReleasePosts :
    (closingAt 1 .dwell .dwell).phaseReaches 16905 [.release] ∧
    (closingAt 1 .dwell .dwell).seq.record = some opened ∧
    (closingAt 1 .dwell .dwell).steam.flush ≠ .opened ∧
    (closingAt 1 .dwell .dwell).seq.cycle = .closing .dwell ∧
    let s := recording (cycling 1 .ended) { opened with capVerdict := some .noCap }
    s.phaseReaches 16905 [.release] ∧ s.seq.record = some { opened with capVerdict := some .noCap } ∧
    s.steam.flush ≠ .opened ∧ s.seq.cycle = .ended ∧
    ({ opened with capVerdict := some .noCap } : Record).capVerdict ≠ none :=
  ⟨reaches rfl rfl (by decide), rfl, by decide, rfl, reaches rfl rfl (by decide), rfl, by decide, rfl,
   by decide⟩

/-- The closing of section 4.12 in DWELL, RELEASE to come at 16,905 µs, with this slip count. -/
def slipping (slip : Nat) : State :=
  { closingAt 1 .dwell .dwell with
    closing := { (closingAt 1 .dwell .dwell).closing with
      slip := slip, command := .hold 250, prevAngle := some 2674 } }

/-- The fourth low sample ahead of RELEASE. -/
theorem witness_ReleasePosts_race :
    (slipping 3).phaseReaches 16905 [.release] ∧ (slipping 3).seq.record = some opened ∧
    (slipping 3).steam.flush ≠ .opened ∧ (slipping 3).seq.cycle = .closing .dwell ∧
    (slipping 3).seq.reachedClosing = true ∧ sampleGood (sample 119 2674) = true ∧
    (slipping 3).closing.phase = .dwell ∧ (slipping 3).closing.limits = some limits ∧
    (sample 119 2674).torque.toInt < limits.tHold ∧ 3 ≤ (slipping 3).closing.slip :=
  ⟨reaches rfl rfl (by decide), rfl, by decide, rfl, rfl, by decide, rfl, rfl, by decide, by decide⟩

/-! ## Witnesses: steam -/

/-- A valve commanded shut and one commanded open meet each state of the feedback. -/
theorem witness_ValveFeedbackFollows :
    (head 5).headRuns = true ∧ (head 5).pins.valveOpen = false ∧
    (flushing .opening 0).headRuns = true ∧ (flushing .opening 0).steam.valve = .opening ∧
    (flushing .opening 0).pins.valveOpen ≠ true ∧
    (flushing .opened 40).headRuns = true ∧ (flushing .opened 40).steam.valve = .opened ∧
    (flushing .opened 40).steam.commandOpen = true ∧
    (valves 5 .idle true .shutting true).headRuns = true ∧
    (valves 5 .idle true .shutting true).pins.valveOpen ≠ false ∧
    (valves 5 .idle true .shut false).steam.commandOpen = false ∧
    (valves 5 .idle true .faultShut true).steam.commandOpen = false ∧
    (valves 5 .idle true .faultOpen true).steam.commandOpen = false := by decide

/-- The flush with its settle timer started at 0. -/
def settling (v : ValveState) (f : FlushState) : State :=
  { flushing v 2500 with
    steam := { (flushing v 2500).steam with flush := f, settle := some 0 } }

theorem witness_SettleTimeFaults :
    let end10 := 0#32 + BitVec.ofNat 32 (header.settleMs * 1000)
    (settling .opening .opened).headRuns = true ∧ (settling .opening .opened).steam.settle = some 0 ∧
    ¬ 0 ≤ since 9999#32 end10 ∧ 0 ≤ since 10000#32 end10 ∧
    (settling .opening .opened).steam.valve = .opening ∧
    (settling .opening .opened).steam.flush = .opened ∧
    (settling .shutting .ended).headRuns = true ∧ (settling .shutting .ended).steam.settle = some 0 ∧
    (settling .shutting .ended).steam.valve = .shutting := by decide

/-- The flush with its next tick due at 1,000 µs. -/
def ticking (v : ValveState) (d : Nat) : State :=
  { flushing v d with steam := { (flushing v d).steam with ticks := some 1000 } }

/-- D = 3159 leaves T = 3200 unreached after a tick of 40, 3160 reaches it. -/
theorem witness_DoseTickCounts :
    (ticking .opened 3159).headRuns = true ∧ (ticking .opened 3159).steam.ticks = some 1000 ∧
    ¬ 0 ≤ since 999#32 1000#32 ∧ 0 ≤ since 1000#32 1000#32 ∧
    min 65535 (3159 + max 1 ((40 * 256 + 128) / 256)) < 3200 ∧
    3200 ≤ min 65535 (3160 + max 1 ((40 * 256 + 128) / 256)) ∧
    (ticking .opened 3160).steam.valve = .opened ∧ (ticking .opened 3160).steam.flush = .opened ∧
    (ticking .faultOpen 3160).headRuns = true ∧ (ticking .faultOpen 3160).steam.valve = .faultOpen ∧
    ((1 : Nat) < 24 ∧ 1 ≤ 1 ∧ 24 ≤ 24) ∧ header.qn = 40 := by decide

theorem witness_RosterFollowsNotices :
    (head 5).headRuns = true ∧ (head 5).link.state = .active ∧ (head 5).link.mutePending = false ∧
    (3 : Address) ≠ (head 5).node.address ∧ (3 : Address) ≠ 24#5 ∧
    ((0 : Byte) = 0 ∨ 3 < (0 : Byte).toNat) ∧ ((4 : Byte) = 0 ∨ 3 < (4 : Byte).toNat) ∧
    (∀ e ∈ (head 5).steam.roster, e.peer ≠ (23 : Address).toNat) := by decide

/-- The head with peer 3 OPEN until 400 ms. -/
def hears : State :=
  { head 5 with steam := { (head 5).steam with roster := [⟨3, .opened 400000⟩, ⟨4, .closed⟩] } }

theorem witness_RosterEntryExpires :
    hears.headRuns = true ∧ (⟨3, .opened 400000⟩ : RosterEntry) ∈ hears.steam.roster ∧
    (3 : Address).toNat = 3 ∧ 0 ≤ since 400000#32 400000#32 ∧ ¬ 0 ≤ since 399999#32 400000#32 ∧
    (∀ e ∈ hears.steam.roster, e.peer = (4 : Address).toNat →
      ∀ expiry, e.state = .opened expiry → ¬ 0 ≤ since 399999 expiry) := by
  refine ⟨rfl, by decide, rfl, by decide, by decide, ?_⟩
  intro e he hp x hx
  simp only [hears, List.mem_cons, List.not_mem_nil, or_false] at he
  rcases he with rfl | rfl
  · exact absurd hp (by decide)
  · cases hx

/-! ## Witnesses: closing the cap -/

theorem witness_SamplesOutsideAClosing :
    (head 5).headRuns = true ∧ (head 5).closing.phase = .free ∧ sampleGood (sample 3 62000) = true ∧
    sampleGood { sample 3 62000 with status := .fault } = false ∧
    ¬ 0 ≤ since 599#32 (head 5).closing.deadline ∧ 0 ≤ since 600#32 (head 5).closing.deadline := by decide

/-- The A of one sample in SEEK, 9 counts on from `a`. -/
def turnedTo (a : Nat) : BitVec 32 :=
  (((closing .seek .seek 1685 a).closing.afterGood 0 (sample 59 1694)).turned 1685 59 1694).angle

/-- Torques of 59 and 60 and an A of 12,288 and 12,289 meet at the limits of section 4.10. -/
theorem witness_SeekTest :
    (closing .seek .seek 1685 5221).headRuns = true ∧ sampleGood (sample 59 1694) = true ∧
    sampleGood (sample 60 1694) = true ∧ (closing .seek .seek 1685 5221).closing.phase = .seek ∧
    (closing .seek .seek 1685 5221).closing.limits = some limits ∧
    (closing .seek .seek 1685 5221).closing.prevAngle = some 1685 ∧
    (closing .seek .seek 1685 5221).seq.cycle = .closing .seek ∧
    (limits.tEngage : Int) ≤ (sample 60 1694).torque.toInt ∧
    (sample 59 1694).torque.toInt < limits.tEngage ∧
    (turnedTo 12279).toInt ≤ limits.sMax ∧ (limits.sMax : Int) < (turnedTo 12280).toInt := by decide

/-- The A of one sample of `torque` in TIGHTEN, 9 counts on from `a`. -/
def securityAt (a : Nat) : Int :=
  ((((closing .tighten .tighten 2665 a).closing.afterGood 0 (sample 252 2674)).turned 2665 252
    2674).angle - 5230#32).toInt

/-- The angle band 600..1400 of section 4.10 at its ends, with torques of 249 and 250. -/
theorem witness_TightenTest :
    (closing .tighten .tighten 2665 6201).headRuns = true ∧ sampleGood (sample 252 2674) = true ∧
    (closing .tighten .tighten 2665 6201).closing.phase = .tighten ∧
    (closing .tighten .tighten 2665 6201).closing.limits = some limits ∧
    (closing .tighten .tighten 2665 6201).closing.prevAngle = some 2665 ∧
    (closing .tighten .tighten 2665 6201).closing.engageAngle = some 5230 ∧
    (closing .tighten .tighten 2665 6201).seq.cycle = .closing .tighten ∧
    (limits.tFinal : Int) ≤ (sample 250 2674).torque.toInt ∧
    ¬ (limits.tFinal : Int) ≤ (sample 249 2674).torque.toInt ∧
    securityAt 5820 < limits.aMin ∧ (limits.aMin : Int) ≤ securityAt 5821 ∧
    securityAt 6621 ≤ limits.aMax ∧ (limits.aMax : Int) < securityAt 6622 := by decide

/-- The dwelling cap of section 4.12 with this slip count. -/
def dwelling (slip : Nat) : State :=
  { closing .dwell .dwell 2674 6210 with
    closing := { (closing .dwell .dwell 2674 6210).closing with slip := slip, command := .hold 250 } }

theorem witness_DwellTest :
    (dwelling 2).headRuns = true ∧ sampleGood (sample 119 2674) = true ∧
    sampleGood (sample 120 2674) = true ∧ (dwelling 2).closing.phase = .dwell ∧
    (dwelling 2).closing.limits = some limits ∧ (dwelling 2).closing.prevAngle = some 2674 ∧
    (dwelling 2).seq.cycle = .closing .dwell ∧ (dwelling 2).steam.flush ≠ .opened ∧
    (sample 119 2674).torque.toInt < limits.tHold ∧ ¬ (sample 120 2674).torque.toInt < limits.tHold ∧
    (dwelling 2).closing.slip < 3 ∧ 3 ≤ (dwelling 3).closing.slip := by decide

theorem witness_BadSampleInAClosing :
    let s := dwelling 2
    let again := { s with closing := { s.closing with badRun := 1 } }
    s.headRuns = true ∧ s.closing.phase.running = true ∧ s.seq.cycle = .closing .dwell ∧
    s.closing.lastTorque = some 115 ∧ s.closing.lastAngle = some 2674 ∧ s.closing.badRun = 0 ∧
    1 ≤ again.closing.badRun ∧ sampleGood { sample 115 2674 with status := .fault } = false ∧
    0 ≤ since 600#32 s.closing.deadline := by decide

/-! ## Witnesses: vacuum prediction -/

/-- The last table point, the last tenth of the last interval, and the ends of the range. -/
theorem witness_VapourPressureLaw :
    (10 : Nat) ≤ 10 ∧ ((9 : Nat) < 10 ∧ (99 : Nat) < 100) ∧ ((999 : Nat) ≤ 1000 ∧ (1000 : Nat) ≤ 1000) := by
  decide

/-- The table of section 5.8, with doses at its first point, at both ends of an interval, and at and past its
last point, and temperatures at the ends of their ranges. -/
theorem witness_PredictedVacuumLaw :
    purgeOk purge = true ∧ purge ≠ [] ∧ purge.head? = some (0, 1024) ∧ (0 : Nat) ≤ 0 ∧
    (2000, 720) ∈ purge ∧
    purge = [(0, 1024), (500, 960), (1000, 880)] ++ (2000, 720) :: (3000, 600) ::
      [(4000, 510), (6000, 400), (9000, 330)] ∧
    (2000 : Nat) ≤ 2000 ∧ (2000 : Nat) < 3000 ∧ (2000 : Nat) ≤ 2999 ∧ (2999 : Nat) < 3000 ∧
    (1000 : Nat) ≤ 1000 ∧ (400 : Nat) ≤ 400 ∧ purge.getLast? = some (9000, 330) ∧
    (9000 : Nat) ≤ 9000 ∧ (9000 : Nat) ≤ 20000 := by decide

/-! ## Witnesses: the station link -/

/-- The head with a STEAM-SHUT in flight that a STEAM-OPEN offered during its frame has overtaken, that
STEAM-OPEN still waiting or taken out by a further STEAM-SHUT. -/
def overtaken (still : Bool) : State :=
  { head 5 with link := { (head 5).link with
      queue := (if still then [⟨.steamOpen, false⟩] else []) ++ [⟨.steamShut, true⟩]
      shutOvertaken := true } }

theorem witness_FrameStartsAndEnds :
    let s := waiting (head 5) [.steamOpen]
    let f := inFlight (head 5) .steamShut []
    let o := overtaken false
    let off := { head 5 with link := { Link.reset with state := .off } }
    s.link.state = .active ∧ s.link.mutePending = false ∧ s.link.queue = [⟨.steamOpen, false⟩] ∧
    (∀ x ∈ s.link.queue, x.inFlight = false) ∧ (head 5).link.queue = [] ∧
    (head 5).link.mutePending = false ∧ ¬ (∃ e ∈ (head 5).link.queue, e.inFlight = true) ∧
    f.link.state = .active ∧ f.link.mutePending = false ∧ (∃ e ∈ f.link.queue, e.inFlight = true) ∧
    ¬ f.link.shutOvertaken = true ∧
    o.link.state = .active ∧ o.link.shutOvertaken = true ∧
    (∃ e ∈ o.link.queue, e.inFlight = true ∧ e.notice = .steamShut) ∧
    off.link.state ≠ .active ∧ off.link.mutePending = false := by decide

theorem witness_FrameSentIsNoReport :
    ∀ e ∈ (inFlight (head 5) .steamShut []).link.queue, e.inFlight = true →
      ∀ p a b c d, e.notice ≠ .report p a b c d := by
  intro e he _ p a b c d
  simp only [inFlight, List.map_nil, List.mem_cons, List.not_mem_nil, or_false] at he
  subst he
  intro h
  cases h

/-- The check node of section 6.10 with this consecutive error count. -/
def failing (errors : Nat) : State :=
  let s := inFlight (check 0) (.state (.stop 1)) []
  { s with link := { s.link with errors := errors } }

/-- The node after its sixteenth transmit error, another node's frame on the wire: MUTE is pending. -/
def mutes (s : State) : State :=
  let s := waiting s [.state (.stop 1)]
  { s with link := { s.link with errors := 16, mutePending := true } }

theorem witness_TransmitErrorsMute :
    (failing 14).link.state = .active ∧ (∃ e ∈ (failing 14).link.queue, e.inFlight = true) ∧
    (failing 14).link.errors < 15 ∧
    (failing 15).link.state = .active ∧ (∃ e ∈ (failing 15).link.queue, e.inFlight = true) ∧
    15 ≤ (failing 15).link.errors ∧
    ¬ (∃ e ∈ (failing 14).link.queue, e.inFlight = true ∧ e.notice = .steamShut) ∧
    (let o := overtaken false
     o.link.state = .active ∧ o.link.shutOvertaken = true ∧ o.link.errors < 15 ∧
     ∃ e ∈ o.link.queue, e.inFlight = true ∧ e.notice = .steamShut) ∧
    (head 5).link.state = .active ∧ ¬ (∃ e ∈ (head 5).link.queue, e.inFlight = true) := by decide

/-- MUTE pending after the sixteenth error, no frame of the node's own on the wire; the frame there ends as a
discarded frame, a STEAM-SHUT, or a frame with the node's own address. -/
theorem witness_TransmitErrorsMute_pending :
    (mutes (check 0)).link.mutePending = true ∧ (mutes (check 0)).link.state = .active ∧
    (∀ e ∈ (mutes (check 0)).link.queue, e.inFlight = false) ∧ (mutes (check 0)).linkOk ∧
    endsFrame (.rxFrameError 0 []) ∧ endsFrame (.steamShutReceived 0 3) ∧
    endsFrame (.duplicateAddress 0) ∧
    (after (.rxFrameError 0 []) (mutes (check 0)).unmuted).link.state = .active ∧
    (after (.duplicateAddress 0) (mutes (check 0)).unmuted).link.state ≠ .active :=
  ⟨rfl, rfl, by decide, ⟨⟨by decide, by decide, by decide, by decide, by decide⟩, by decide⟩,
   ⟨.kind, by decide +kernel⟩, trivial, trivial, by decide +kernel, by decide⟩

theorem witness_ReceptionFaults :
    let muted := { head 5 with link := { Link.reset with state := .mute } }
    let off := { head 5 with link := { Link.reset with state := .off } }
    let starting := { head 5 with link := Link.reset }
    (head 5).link.mutePending = false ∧ (head 5).link.state = .active ∧
    muted.link.mutePending = false ∧ muted.link.state = .mute ∧
    ¬ (off.link.state = .active ∨ off.link.state = .mute) ∧
    ¬ (starting.link.state = .active ∨ starting.link.state = .mute) ∧
    readFrame [] = .bad .kind ∧
    readFrame (frameAfterStart 1 3 []) = .valid 1 3 [] := by decide +kernel

/-- A frame with the node's own address and with another, the ops outside 1..7, and a frame that fails a test. -/
theorem witness_FrameRoundTrip :
    (5 : Address) = 5 ∧ (30 : Address) ≠ 5 ∧ (0 : Byte) = 0 ∧ 7 < (8 : Byte).toNat ∧
    readFrame [] = .bad .kind := by decide +kernel

/-- The full queue of section 6.9, and the one it began as. -/
def fullQueue (first : List Notice) : State :=
  waiting (head 5) (first ++ [.state (.bankChanged 1)] ++
    (List.range 5).map fun p => .report p 0 0 0 0)

theorem linkOk_fullQueue : (fullQueue [.steamOpen, .state (.bankChanged 1)]).link.ok ∧
    (fullQueue [.steamShut]).link.ok :=
  ⟨⟨by decide, by decide, by decide, by decide, by decide⟩,
   ⟨by decide, by decide, by decide, by decide, by decide⟩⟩

theorem witness_NoticeTakesItsPlace :
    let s := fullQueue [.steamOpen, .state (.bankChanged 1)]
    let q := s.link.queue
    s.link.state = .active ∧ (∃ e ∈ q, e.notice = .steamOpen) ∧ 8 ≤ q.length ∧
    (∃ e ∈ (fullQueue [.steamShut]).link.queue, e.inFlight = false ∧ e.notice = .steamShut) ∧
    (fullQueue [.steamShut]).link.queue.length < 8 ∧
    (∀ e ∈ q, e.inFlight = true ∨ e.notice ≠ .steamShut) ∧
    (∀ e ∈ q, e.inFlight = false → e.notice.kind ≤ (Notice.report 0 0 0 0 0).kind) ∧
    (let gone : QueueEntry := ⟨.report 4 0 0 0 0, false⟩
     q = q.take 7 ++ gone :: [] ∧ gone.inFlight = false ∧ Notice.steamOpen.kind < gone.notice.kind ∧
     ∀ e ∈ q, e.inFlight = false → e.notice.kind ≤ gone.notice.kind) ∧
    ({ head 5 with link := Link.reset } : State).link.state ≠ .active := by decide

/-- A STEAM-SHUT in flight, no STEAM-OPEN offered yet, and one that is already overtaken. -/
theorem witness_NoticeTakesItsPlace_overtaken :
    let s := inFlight (head 5) .steamShut []
    let o := overtaken true
    s.link.ok ∧ s.link.state = .active ∧
    (∃ e ∈ s.link.queue, e.inFlight = true ∧ e.notice = .steamShut) ∧
    o.link.ok ∧ o.link.state = .active ∧
    (∃ e ∈ o.link.queue, e.inFlight = true ∧ e.notice = .steamShut) ∧
    (∃ e ∈ o.link.queue, e.notice = .steamOpen) :=
  ⟨⟨by decide, by decide, by decide, by decide, by decide⟩, rfl, by decide,
   ⟨by decide, by decide, by decide, by decide, by decide⟩, rfl, by decide, by decide⟩

/-! ## Witnesses: verdict return -/

/-- The head of section 7.8 awaiting revolutions 412 and 413. -/
def awaits (trim run : Nat) (degraded : Bool) : State :=
  { head 5 with
    verdicts :=
      { awaited := [⟨412, 1, .good, some 800, 3220⟩, ⟨413, 1, .aborted, none, 2400⟩]
        trims := ⟨0, trim, 0, 0⟩, goodRun := ⟨0, run, 0, 0⟩, degraded := ⟨false, degraded, false, false⟩ } }

/-- A VERDICT ACCEPT for the head at pocket 5. -/
def answer (revolution vMeas : Nat) : VerdictPayload :=
  { head := 5, revolution := BitVec.ofNat 16 revolution, code := 0, flags := 0
    vMeas := BitVec.ofNat 16 vMeas }

/-- A measured 799 is low under bank 1, 800 is good. -/
theorem witness_VerdictAnswers :
    let s := awaits 200 0 false
    s.headRuns = true ∧ s.link.state = .active ∧ s.link.mutePending = false ∧ s.node.address ≠ 24#5 ∧
    (answer 412 799).head.toNat = s.own ∧
    ({ answer 412 799 with head := 6 } : VerdictPayload).head.toNat ≠ s.own ∧
    (answer 700 799).revolution ∉ s.verdicts.awaited.map (·.revolution) ∧
    s.verdicts.awaited = [] ++ ⟨412, 1, .good, some 800, 3220⟩ :: [⟨413, 1, .aborted, none, 2400⟩] ∧
    s.verdicts.awaited = [⟨412, 1, .good, some 800, 3220⟩] ++ ⟨413, 1, .aborted, none, 2400⟩ :: [] ∧
    (answer 413 655).revolution ∉ [(412 : Half)] ∧ CapVerdict.aborted ≠ .good ∧
    (answer 412 799).vMeas ≠ 65535#16 ∧ (answer 412 799).code.toNat ≤ 4 ∧
    (answer 412 799).vMeas.toNat < bank1.vMin + bank1.trimMargin ∧
    ¬ (answer 412 800).vMeas.toNat < bank1.vMin + bank1.trimMargin ∧
    s.verdicts.trims.get 1 ≠ bank1.trimMax ∧
    (awaits 400 0 true).verdicts.trims.get 1 = bank1.trimMax ∧
    (awaits 400 0 true).verdicts.degraded.get 1 = true ∧
    (awaits 400 0 false).verdicts.degraded.get 1 = false ∧
    (awaits 200 6 false).verdicts.goodRun.get 1 < 7 ∧ 7 ≤ (awaits 200 7 false).verdicts.goodRun.get 1 ∧
    max 0 (400 - bank1.trimStep) < bank1.trimMax := by decide

theorem witness_CheckJoinForgetsAwaited :
    (awaits 200 0 false).headRuns = true ∧ (awaits 200 0 false).link.state = .active ∧
    (awaits 200 0 false).link.mutePending = false ∧ (awaits 200 0 false).node.address ≠ 24#5 ∧
    (3 : Address) ≠ 24#5 ∧ (3 : Address) ≠ (awaits 200 0 false).node.address := by decide

/-! ## Witnesses: the check station -/

/-- A SEAL of section 8.8, GOOD. -/
def sealOf (revolution : Nat) : SealPayload :=
  { revolution := BitVec.ofNat 16 revolution, bank := 1, capVerdict := 0, flags := 0, detail := 0x20
    securityAngle := 980, peakTorque := 252, dose := 3220, temperature := 857, vPred := 790
    signature := 0 }

/-- The check node expecting pocket 3 next, having last heard revolution 1207 from head 3. -/
def expecting : State :=
  { check 120000 with
    transit := { (check 120000).transit with
      nextPocket := some 3, lastRev := (List.replicate 12 none).set 3 (some 1207) } }

/-- From pocket 3 the head at 9 lies 6 ahead, which is N/2, and the head at 10 lies 7 ahead. -/
theorem witness_RecordsJoinTheList :
    expecting.checkRuns = true ∧ expecting.link.state = .active ∧ expecting.link.mutePending = false ∧
    (3 : Address) ≠ expecting.node.address ∧ (3 : Address).toNat < expecting.config.header.n ∧
    expecting.config.header.n ≤ (12 : Address).toNat ∧
    expecting.transit.lastRev.getD 3 none = some (sealOf 1207).revolution ∧
    expecting.transit.lastRev.getD 9 none ≠ some (sealOf 512).revolution ∧
    (check 0).transit.nextPocket = none ∧ expecting.transit.nextPocket = some 3 ∧
    (3 + 12 - 3) % 12 = 0 ∧ (9 + 12 - 3) % 12 ≤ 12 / 2 ∧ 12 / 2 < (10 + 12 - 3) % 12 := by decide

/-- SEAL 5 and VOID 6 of section 8.8: the window of SEAL 5 is passed at 128,362 and not before. -/
theorem witness_ConveyorAndWindows :
    let es : List TransitEntry := [.sealed entryA 128301, .void 6 88 128449]
    (lists 128362 es).checkRuns = true ∧
    (lists 128362 es).transit.entries = [.sealed entryA 128301] ++ [.void 6 88 128449] ∧
    1 ≤ since 128362#32 (128301#32 + BitVec.ofNat 32 header.w) ∧
    ¬ 1 ≤ since 128361#32 (128301#32 + BitVec.ofNat 32 header.w) ∧
    ¬ 1 ≤ since 128362#32 (128449#32 + BitVec.ofNat 32 header.w) := by decide

/-- The window 127,940..128,060 of SEAL 3 in section 8.8 at its ends. -/
theorem witness_JarArrives :
    (lists 128060 [.sealed entryA 128000]).checkRuns = true ∧
    (lists 128060 [.sealed entryA 128000]).transit.entries = TransitEntry.sealed entryA 128000 :: [] ∧
    ¬ 1 ≤ since 128060#32 (128000#32 + BitVec.ofNat 32 header.w) ∧
    since 127939#32 (128000#32 - BitVec.ofNat 32 header.w) < 0 ∧
    ¬ since 127940#32 (128000#32 - BitVec.ofNat 32 header.w) < 0 ∧
    (lists 128449 [.void 6 88 128449]).transit.entries = TransitEntry.void 6 88 128449 :: [] ∧
    (lists 128303 [.gap 4 128301]).transit.entries = TransitEntry.gap 4 128301 :: [] ∧
    (check 0).transit.entries = [] := by decide

theorem witness_ReadingsJudge :
    (slotted 500012 (.held (.sealed entryA 500000) 500000)).checkRuns = true ∧
    (slotted 500012 .empty).reject.slot = .empty ∧
    (slotted 500012 (.stray 500000)).reject.slot = .stray 500000 ∧
    (slotted 500012 (.held (.sealed entryA 500000) 500000)).reject.slot = .held (.sealed entryA 500000) 500000 ∧
    ¬ 0 ≤ since 500039#32 (500000#32 + BitVec.ofNat 32 header.rRead) ∧
    0 ≤ since 500040#32 (500000#32 + BitVec.ofNat 32 header.rRead) := by decide

/-- The check node with this reject queue and pulse end. -/
def gates (x : Nat) (queue : List Position) (pulse : Option Time) : State :=
  { check x with reject := { RejectUnit.reset with queue := queue, pulseEnd := pulse } }

theorem witness_GatePulses :
    let s := gates 500550 [500550, 500610] (some 30000)
    s.checkRuns = true ∧ s.reject.queue = [500550] ++ [500610] ∧
    0 ≤ since s.transit.position 500550 ∧ ¬ 0 ≤ since s.transit.position 500610 ∧
    s.reject.pulseEnd = some 30000 ∧ 0 ≤ since 30000#32 30000#32 ∧ ¬ 0 ≤ since 29999#32 30000#32 ∧
    (gates 500550 [] none).reject.pulseEnd = none := by decide

/-! ## Witnesses: commands and reports -/

/-- A mask that names the nodes at 5 and 24. -/
def named : BitVec 32 := 0x01000020

theorem addressed_named {s : State} (l : s.link.state = .active) (m : s.link.mutePending = false)
    (a : s.node.address = 5 ∨ s.node.address = 24) : s.addressed 30 named := by
  rcases a with a | a
  · exact ⟨⟨.inl l, m, by rw [a]; decide⟩, .inl rfl, by rw [a]; decide⟩
  · exact ⟨⟨.inl l, m, by rw [a]; decide⟩, .inl rfl, by rw [a]; decide⟩

/-- The head in a node state. -/
def headIn (m : NodeMode) : State := { head 5 with node := { (head 5).node with mode := m } }

theorem witness_CommandTests :
    (head 5).delivers 30 ∧ (head 5).delivers 29 ∧ (29 : Address) ≠ 30#5 ∧ (29 : Address) ≠ 31#5 ∧
    named.getLsbD (head 5).node.address.toNat = true ∧
    ¬ (0 : BitVec 32).getLsbD (head 5).node.address.toNat = true ∧
    (headIn .saved).delivers 31 ∧ (headIn .halted).delivers 31 ∧
    (headIn .saved).node.mode = .saved ∧ (headIn .halted).node.mode = .halted ∧
    (head 5).node.mode = .operating ∧ ¬ 7 < (7 : Byte).toNat ∧ 7 < (8 : Byte).toNat ∧
    ¬ 3 < (3 : Byte).toNat ∧ 3 < (4 : Byte).toNat ∧ ¬ 2 < (2 : Byte).toNat ∧ 2 < (3 : Byte).toNat :=
  ⟨⟨.inl rfl, rfl, by decide⟩, ⟨.inl rfl, rfl, by decide⟩, by decide, by decide, by decide, by decide,
   ⟨.inl rfl, rfl, by decide⟩, ⟨.inl rfl, rfl, by decide⟩, rfl, rfl, rfl, by decide, by decide, by decide,
   by decide, by decide, by decide⟩

/-- The check node with its latch set or clear. -/
def latched (stop : Bool) : State :=
  { check 0 with reject := { RejectUnit.reset with stop := stop, consecutive := 4 } }

theorem witness_OpsByRole :
    (head 5).addressed 30 named ∧ (head 5).node.mode = .operating ∧ (head 5).node.role = .head ∧
    (3 : Byte) = BitVec.ofNat 8 (3 : BankId).toNat ∧
    (latched true).addressed 30 named ∧ (latched true).node.mode = .operating ∧
    (latched true).node.role = .check ∧ (latched true).reject.stop = true ∧
    (latched false).addressed 30 named ∧ (latched false).reject.stop = false :=
  ⟨addressed_named rfl rfl (.inl rfl), rfl, rfl, by decide, addressed_named rfl rfl (.inr rfl), rfl, rfl,
   rfl, addressed_named rfl rfl (.inr rfl), rfl⟩

/-- The head of section 10.5 with a page in flight, as many pages still to go as given, the clear asked for or
not. -/
def paging (pages : Nat) (clear : Bool) : State :=
  let s := inFlight (head 5) (.report 4 0 0 0 0) [.state (.bankChanged 1)]
  { s with config := { s.config with
      reportOutstanding := true, clearPending := clear, pagesInQueue := pages
      snapshot := some (1000 :: List.replicate 19 0) }
           counters := { Counters.zero with head := { Counters.zero.head with sealsGood := 1001 } } }

/-- The same with its last page in flight. -/
abbrev lastPage : State := paging 1 true

/-- The full queue of section 6.9, five of its entries the pages of a report. -/
def pagesWaiting : State :=
  let s := fullQueue [.steamOpen, .state (.bankChanged 1)]
  { s with config := { s.config with
      reportOutstanding := true, pagesInQueue := 5, snapshot := some (List.replicate 20 0) } }

theorem witness_CountsAndReports :
    lastPage.addressed 30 named ∧ lastPage.node.mode = .operating ∧ (2 : Byte).toNat ≤ 2 ∧
    lastPage.config.reportOutstanding = true ∧ (head 5).addressed 30 named ∧
    (head 5).config.reportOutstanding = false ∧
    (headIn .halted).addressed 30 named ∧ (headIn .halted).node.mode = .halted :=
  ⟨addressed_named rfl rfl (.inl rfl), rfl, by decide, rfl, addressed_named rfl rfl (.inl rfl), rfl,
   addressed_named rfl rfl (.inl rfl), rfl⟩

/-- A page that is not the last, and the last one with and without its clear. -/
theorem witness_CountsAndReports_sent (pages : Nat) (clear : Bool) :
    (paging pages clear).link.state = .active ∧ (paging pages clear).config.reportOutstanding = true ∧
    (paging pages clear).config.snapshot = some (1000 :: List.replicate 19 0) ∧
    (1000 :: List.replicate 19 0 : List Count).length = 20 ∧
    (paging pages clear).link.queue =
      [] ++ ⟨.report 4 0 0 0 0, true⟩ :: [⟨.state (.bankChanged 1), false⟩] ∧
    (⟨.report 4 0 0 0 0, true⟩ : QueueEntry).isPage = true ∧
    (∀ e ∈ ([] ++ [⟨.state (.bankChanged 1), false⟩] : List QueueEntry), e.inFlight = false) ∧
    (paging pages clear).config.pagesInQueue = pages ∧
    (paging pages clear).config.clearPending = clear ∧ (paging pages clear).config.pagesLost = false ∧
    (paging pages clear).node.mode ≠ .saved :=
  ⟨rfl, rfl, rfl, by decide, rfl, rfl, by decide, rfl, rfl, rfl, nofun⟩

/-- A full queue whose last entry, a page, gives way to a STATE or to a STEAM-OPEN. -/
theorem witness_CountsAndReports_displaced :
    let q := pagesWaiting.link.queue
    pagesWaiting.link.state = .active ∧ pagesWaiting.config.reportOutstanding = true ∧ 8 ≤ q.length ∧
    q = q.take 7 ++ ⟨.report 4 0 0 0 0, false⟩ :: [] ∧
    (⟨.report 4 0 0 0 0, false⟩ : QueueEntry).isPage = true ∧ (Notice.state .stopReleased).kind < 10 ∧
    Notice.steamOpen.kind < 10 ∧ (∀ e ∈ q, e.inFlight = true ∨ e.notice ≠ .steamShut) := by decide

/-! ## Witnesses: lamp and laws -/

theorem witness_LampFollows :
    State.reset.pins.pwarn = false ∧ boots.crystalReady = false ∧
    (latched true).addressed 30 named ∧ (latched true).node.mode = .operating ∧
    (latched true).node.role = .check ∧ (latched true).reject.stop = true ∧
    (latched true).seq.selfLock = false ∧ (latched true).link.state = .active :=
  ⟨rfl, rfl, addressed_named rfl rfl (.inr rfl), rfl, rfl, rfl, rfl, rfl⟩

/-- The node of section 11.5 at the end of its save, which writes 26 bytes. -/
theorem witness_MemoryKept :
    let s := { saving true with pending := [.saveComplete 0 boots] }
    s.memoryOk ∧ ∃ u, step s = .next u := ⟨memoryOk_saving, _, rfl⟩

/-- The full queue of section 6.9 as a frame starts. -/
theorem witness_TransmitQueueKept :
    let s := { fullQueue [.steamOpen, .state (.bankChanged 1)] with pending := [.frameStart 0] }
    s.linkOk ∧ ∃ u, step s = .next u := ⟨⟨linkOk_fullQueue.1, by decide⟩, _, rfl⟩

/-- Tick 100 of section 3.7. -/
theorem witness_ValveLawKept :
    let s := { ticking .opened 3193 with pending := [.doseTick 1000] }
    s.steamOk ∧ ∃ u, step s = .next u := by
  refine ⟨⟨⟨?_, ?_, ?_, ?_, ?_, ?_, ?_, ?_⟩, ?_⟩, _, rfl⟩
  · decide
  · decide
  · exact fun _ => .inl rfl
  · exact fun _ => .inl (.inl rfl)
  · exact fun h => absurd h (by decide)
  · exact fun _ => ⟨.inl rfl, .inl (.inl rfl)⟩
  · exact fun _ => ⟨3200, rfl, by decide⟩
  · intro t h
    cases h
    decide
  · exact fun h => absurd h (by decide)

/-- The sample that seats the cap in section 4.10. -/
theorem witness_BoundsKept :
    let s := { closing .tighten .tighten 2665 6201 with pending := [.driveSample 0 (sample 252 2674)] }
    s.boundsOk ∧ ∃ u, step s = .next u := by
  refine ⟨⟨⟨limits, rfl, rfl⟩, by decide, ?_, ⟨by decide, by decide⟩, ⟨by decide, fun _ => by decide⟩,
    ⟨by decide, by decide, by decide, by decide⟩⟩, _, rfl⟩
  intro e h
  cases h
  decide


/-! ## One step each, against the worked examples -/

/-- A reset after the last byte of section 11.5's save keeps the whole save (R187). -/
theorem test_powerOnReset :
    let u := after (.powerOnReset boots 26 ⟨true, true, false⟩) (saving true)
    u.node.mode = .saved ∧ Memory.slice u.memory 448 5 = [0xA5, 1, 0, 0, 1] := by decide +kernel

/-- A reset before the marker leaves it as it was (R187). -/
theorem test_resetLine :
    let u := after (.resetLine boots 25) (saving true)
    u.node.cause = .pin ∧ Memory.slice u.memory 448 3 = [0xFF, 1, 0] := by decide +kernel

/-- The JOIN of section 11.5. -/
theorem test_crystalReady :
    let s := waits (head 5) false
    notices (after (.crystalReady 50000) { s with node := { s.node with cause := .warnRecovery } }) =
      [.join { role := 0, cause := 2, signature := 0, activeBank := 1, flags := 0 }] := by decide

theorem test_crystalWaitExpiry :
    let s := waits (check 0) false
    (after (.crystalWaitExpiry 49999) s).node.mode = .start ∧
    (after (.crystalWaitExpiry 50000) s).node.mode = .operating ∧
    (after (.crystalWaitExpiry 50000) s).lamp = true := by decide

/-- Section 11.5: lifetime counters 1 and 4 become 52,001 and 41, and a STEAM-SHUT and a SEAL are offered. -/
theorem test_powerWarningAsserted :
    let s := flushing .opened 1200
    let u := after (.powerWarningAsserted ⟨0, none⟩)
      { s with config := { s.config with lifetime := ⟨52000, 50900, 7, 40⟩ } }
    u.config.lifetime = ⟨52001, 50900, 7, 41⟩ ∧ (notices u).map (·.kind) = [2, 5] ∧
    u.node.saving.length = 26 := by decide

theorem test_saveComplete :
    let u := after (.saveComplete 0 boots) (saving true)
    Memory.slice u.memory 458 8 = [0, 0, 0xCB, 0x21, 0, 0, 0xC6, 0xD4] ∧ u.node.mode = .saved := by
  decide +kernel

/-- Section 11.5, 4 ms: the line is negated and the save still runs. -/
theorem test_powerWarningNegated :
    let u := after (.powerWarningNegated 4000 boots) (saving true)
    u.node.mode = .saved ∧ u.pins.pwarn = false := by decide

/-- Pulses 6 and 14 of section 1.7. -/
theorem test_turretPulse_acquire :
    let six := after (.turretPulse ⟨101000, none⟩ false false) (acquiring (some 80343) (some 0) 3)
    let fourteen := after (.turretPulse ⟨83000, none⟩ false false) (acquiring (some 83336) (some 0) 7)
    six.tracker.pitch = some 85507 ∧ fourteen.tracker.pitch = some 83252 ∧
    fourteen.tracker.lock = .locked := by decide

/-- Section 1.8: the pulse at 61,000 µs passes APPLY_END and is a miss. -/
theorem test_turretPulse_passes_apply_end :
    let u := after (.turretPulse ⟨61000, none⟩ false false) (closingAt 0 .seek .seek)
    u.tracker.miss = 1 ∧ u.tracker.pitch = some pitch ∧ u.seq.cycle = .ended ∧
    u.seq.record.map (·.capVerdict) = some (some .unfinished) := by decide

/-- Section 1.7: the deadline after pulse 15. -/
theorem test_pitchLossDeadline :
    let s := acquiring (some pitch) (some 1170000) 0
    let s := { s with tracker := { s.tracker with lock := .locked } }
    (after (.pitchLossDeadline ⟨1502883, none⟩) s).tracker.lock = .locked ∧
    (after (.pitchLossDeadline ⟨1502884, none⟩) s).tracker.lock = .acquire := by decide

/-- R86: the sample that loses the feedback ahead of the deadline stops the spindle, which the abort then finds
PARKED; the verdict is ABORTED. -/
theorem test_pitchLossDeadline_after_sample :
    let s := closing .seek .seek 62000 0
    let s := { s with closing := { s.closing with badRun := 1 } }
    let bad := { sample 3 62000 with status := .fault }
    let u := after (.pitchLossDeadline ⟨332884, some (.arrival bad)⟩) s
    u.counters.head.feedbackLosses = 1 ∧ u.closing.phase = .parked ∧ u.closing.sent = [.spin 400, .stop] ∧
    u.seq.record.map (fun r => (r.capVerdict, r.abortCause)) = some (some .aborted, some .pitch) := by decide

/-- Section 1.8: PICK falls at 14,304 µs. R85: APPLY_END taken first finds the unit in DWELL, HOLD in force,
and the verdict is UNFINISHED. -/
theorem test_phaseBoundary_pick :
    (after (.phaseBoundary ⟨14303, none⟩ true) (cycling 6 .loading)).seq.cycle = .loading ∧
    (after (.phaseBoundary ⟨14304, none⟩ true) (cycling 6 .loading)).seq.cycle = .primed ∧
    let u := after (.phaseBoundary ⟨65017, some (.arrival (sample 252 2674))⟩ true) (tightening 6201)
    u.seq.record.map (·.capVerdict) = some (some .unfinished) ∧ u.closing.phase = .parked ∧
    u.closing.sent = [.spin 400, .hold 250, .stop] := by decide

/-- The SEAL of section 2.11. R87: RELEASE taken before SLIPPED posts GOOD. -/
theorem test_phaseBoundary_release :
    let s := closingAt 1 .dwell .dwell
    let r := { opened with
      temperature := some 857, tempSource := some .sensor, trimSnapshot := some 200, target := some 3200
      dose := 3220, flushEnd := .target, steamResult := .full, securityAngle := some 980
      peakTorque := 252 }
    let u := after (.phaseBoundary ⟨16905, none⟩ true) { s with seq := { s.seq with record := some r } }
    notices u = [.sealed
      { revolution := 412, bank := 1, capVerdict := 0, flags := 0, detail := 0x20, securityAngle := 980
        peakTorque := 252, dose := 3220, temperature := 857, vPred := 800, signature := 0 }] ∧
    u.counters.head.sealsGood = 1 ∧
    let v := after (.phaseBoundary ⟨16905, some (.arrival (sample 119 2674))⟩ true) (slipping 3)
    v.counters.head.sealsGood = 1 ∧ v.closing.phase = .free ∧
    v.closing.sent = [.hold 250, .stop, .freewheel] := by decide +kernel

/-- Section 2.12: the run line falls at D = 2400. -/
theorem test_runLineFall :
    let u := after (.runLineFall ⟨69000, none⟩) (flushing .opened 2400)
    u.seq.record.map (fun r => (r.flushEnd, r.steamResult, r.capVerdict, r.abortCause)) =
      some (.abort, .underflush, some .aborted, some .runOff) ∧
    notices u = [.steamShut] ∧ u.counters.head.cycleAborts = 1 := by decide

/-- A fall taken at PICK's time of section 1.8 and before it: PICK waits for the next counted pulse (log 29). -/
theorem test_runLineFall_at_pick :
    let u := after (.runLineFall ⟨14304, none⟩) (cycling 6 .loading)
    let v := after (.phaseBoundary ⟨14304, none⟩ true) u
    v.tracker.phase = 43 ∧ v.seq.cycle = .loading ∧
    (after (.turretPulse ⟨83221, none⟩ false true) v).seq.cycle = .primed := by decide

theorem test_runLineRise :
    let s := after (.runLineFall ⟨0, none⟩) (head 5)
    (after (.runLineRise 1) s).tracker.lock = .acquire ∧ (after (.runLineRise 1) s).tracker.tLast = none ∧
    (after (.runLineRise 1) s).tracker.pitch = some pitch := by decide

/-- The last reading before FLUSH_START stands (R28). -/
theorem test_temperatureReading :
    (after (.temperatureReading 0 ⟨857, true⟩) (head 7)).seq.lastTemp = some ⟨857, true⟩ := by decide

/-- Section 3.7, 8 ms. -/
theorem test_valveFeedbackChange :
    let u := after (.valveFeedbackChange 8000 true) (flushing .opening 0)
    u.steam.valve = .opened ∧ u.steam.ticks = some 9000 ∧ notices u = [.steamOpen] := by decide

/-- Section 3.8. -/
theorem test_settleTimerExpiry :
    let u := after (.settleTimerExpiry 10000) { settling .opening .opened with
      steam := { (settling .opening .opened).steam with dose := 0 } }
    u.steam.valve = .faultShut ∧ notices u = [.valveFault .stuckShut] ∧
    u.counters.head.underflushes = 1 ∧ u.counters.head.valveFaults = 1 := by decide

/-- Ticks 41 and 100 of section 3.7, with five peers open. -/
theorem test_doseTick :
    let crowded (s : State) := { s with steam := { s.steam with
      roster := [3, 4, 6, 7, 8].map fun p => ⟨p, .opened 400000⟩ } }
    (after (.doseTick 1000) (crowded (ticking .opened 1600))).steam.dose = 1627 ∧
    (after (.doseTick 1000) (ticking .opened 1560)).steam.dose = 1600 ∧
    let u := after (.doseTick 1000) (crowded { ticking .opened 3193 with
      pins := { (head 7).pins with valveOpen := true } })
    u.steam.dose = 3220 ∧ u.steam.valve = .shutting ∧ notices u = [.steamShut] := by decide

theorem test_rosterExpiry :
    (after (.rosterExpiry 400000 3) hears).counters.head.rosterStale = 1 ∧
    (after (.rosterExpiry 399999 3) hears).counters.head.rosterStale = 0 := by decide

/-- Samples 521 and 1,001 of section 4.10. -/
theorem test_driveSample :
    (after (.driveSample 0 (sample 25 2)) (closing .seek .seek 65527 3527)).closing.angle = 3538 ∧
    let u := after (.driveSample 0 (sample 252 2674)) (closing .tighten .tighten 2665 6201)
    u.closing.phase = .dwell ∧ u.closing.command = .hold 250 ∧
    u.seq.record.map (fun r => (r.securityAngle, r.peakTorque)) = some (some 980, 252) := by decide

/-- The slip of section 4.12: the held sample 4, and the fourth in a row. -/
theorem test_driveSample_slips :
    (after (.driveSample 0 { sample 117 2674 with status := .fault }) (dwelling 2)).closing.slip = 3 ∧
    (after (.driveSample 0 (sample 117 2674)) (dwelling 3)).seq.record.map (·.capVerdict) =
      some (some .slipped) := by decide

/-- Section 4.12, 850 µs. -/
theorem test_sampleDeadline :
    let s := closing .tighten .tighten 3364 5900
    let u := after (.sampleDeadline 850) { s with closing := { s.closing with
      badRun := 1, deadline := 850 } }
    u.closing.phase = .parked ∧ u.counters.head.feedbackLosses = 1 ∧ u.counters.head.driveTimeouts = 1 ∧
    u.closing.deadline = 1450 := by decide

/-- Section 6.8: the frame of head 3, with a sync bit after its eighth bit. -/
theorem test_frameStart :
    let s := waiting { head 5 with node := { (head 5).node with address := 3 } } [.steamOpen]
    (after (.frameStart 0) s).link.wire.take 11 =
      [false, false, false, false, true, false, false, false, true, false, true] ∧
    (after (.frameStart 0) s).link.wire.length = 36 := by decide

/-- R118: a STEAM-SHUT overtaken during its frame is not sent again, one that was not stays. -/
theorem test_contestLost_overtaken :
    let s := inFlight (head 5) .steamShut []
    let u := after (.contestLost 0) ((s.offer .steamOpen).offer .steamShut)
    notices (s.offer .steamOpen) = [.steamOpen, .steamShut] ∧ notices u = [] ∧
    notices (after (.contestLost 0) s) = [.steamShut] := by decide

theorem test_contestLost :
    (after (.contestLost 0) (inFlight (head 7) .steamOpen [])).link.queue = [⟨.steamOpen, false⟩] := by
  decide

/-- Another node's frame on the wire: the MUTE of the sixteenth error comes when it has ended. -/
theorem test_transmitError_pending :
    let u := after (.transmitError 0 true) (failing 15)
    u.link.state = .active ∧ u.link.mutePending = true ∧
    (after (.steamShutReceived 1 3) u).link.state = .mute ∧ (after (.frameStart 1) u).link.state = .mute := by
  decide

/-- Section 6.10: the count of 16. -/
theorem test_transmitError :
    let u := after (.transmitError 0 false) (failing 15)
    u.link.state = .mute ∧ u.counters.link.linkDropped = 1 ∧ u.counters.link.txErrors = 1 := by decide

theorem test_frameSent :
    let u := after (.frameSent 0) (failing 15)
    u.link.state = .active ∧ u.link.errors = 0 ∧ u.link.queue = [] := by decide

theorem test_rxFrameError :
    (after (.rxFrameError 0 []) (head 5)).counters.link.rxErrors = 1 ∧
    (after (.rxFrameError 0 (frameAfterStart 1 3 [])) (head 5)).counters.link.rxErrors = 0 := by
  decide +kernel

theorem test_duplicateAddress : (after (.duplicateAddress 0) (head 5)).link.state = .mute := by decide

/-- Section 6.8: head 7 sets the entry of pocket 3. -/
theorem test_steamOpenReceived :
    (after (.steamOpenReceived 100 3) (head 7)).steam.roster.head? = some ⟨3, .opened 400100⟩ := by decide

theorem test_steamShutReceived :
    (after (.steamShutReceived 100 3) hears).steam.roster.head? = some ⟨3, .closed⟩ := by decide

/-- Section 3.9: STUCK_OPEN. -/
theorem test_valveFaultReceived :
    (after (.valveFaultReceived 0 3 1) hears).steam.roster.head? = some ⟨3, .stuck⟩ := by decide

/-- Section 7.9: the JOIN from 24. -/
theorem test_joinReceived :
    let u := after (.joinReceived 0 24 ⟨1, 1, 0, 0, 0⟩) (awaits 200 0 false)
    u.verdicts.awaited = [] ∧ u.counters.head.verdictsUnanswered = 2 := by decide

/-- Section 7.8: the answers for 412, 415 and 425, as they find the trim and the counts. -/
theorem test_verdictReceived :
    (after (.verdictReceived 0 24 (answer 412 797)) (awaits 200 0 false)).verdicts.trims.get 1 = 300 ∧
    notices (after (.verdictReceived 0 24 (answer 412 788)) (awaits 400 0 false)) =
      [.state (.degraded 1)] ∧
    let u := after (.verdictReceived 0 24 (answer 412 808)) (awaits 400 7 true)
    u.verdicts.trims.get 1 = 300 ∧ u.verdicts.goodRun.get 1 = 0 ∧ notices u = [.state (.recovered 1)] := by
  decide

/-- Section 7.8: the answer for 413 moves nothing and gives 412 up. -/
theorem test_verdictReceived_aborted :
    let u := after (.verdictReceived 0 24 (answer 413 655)) (awaits 300 0 false)
    u.verdicts.trims.get 1 = 300 ∧ u.verdicts.awaited = [] ∧ u.counters.head.verdictsUnanswered = 1 := by
  decide

/-- Section 8.8: head 5's record finds the lost one of head 4. -/
theorem test_sealReceived :
    let s := { check 120301 with transit := { (check 120301).transit with nextPocket := some 4 } }
    let u := after (.sealReceived 0 5 (sealOf 433)) s
    u.transit.entries = [.gap 4 128301, .sealed
      { head := 5, revolution := 433, capVerdict := 0, vPred := 790, bank := 1, sigMatch := true } 128301] ∧
    u.transit.nextPocket = some 6 ∧ u.counters.check.gapsInserted = 1 := by decide

/-- Section 8.9: head 1's late record, here a VOID, is an order fault. -/
theorem test_voidReceived :
    let s := { check 200560 with transit := { (check 200560).transit with nextPocket := some 3 } }
    let u := after (.voidReceived 0 1 ⟨915, 0⟩) s
    u.transit.entries = [.void 1 915 208560] ∧ u.transit.nextPocket = some 2 ∧
    u.counters.check.orderFaults = 1 := by decide

theorem test_conveyorAdvance :
    (after (.conveyorAdvance 0 false) (check 0xFFFFFFFF)).transit.position = 0 ∧
    (after (.conveyorAdvance 0 true) (check 7)).transit.position = 7 := by decide

/-- Section 8.8: SEAL 5 closes at 128,362. -/
theorem test_transitWindowClose :
    let u := after (.transitWindowClose 0) (lists 128362 [.sealed entryA 128301, .void 6 88 128449])
    u.transit.entries = [.void 6 88 128449] ∧
    notices u = [.verdict { head := 3, revolution := 1207, code := 5, flags := 0, vMeas := 65535 }] := by
  decide

/-- Section 8.8: the match at 128,303 and the stray at 128,151. -/
theorem test_jarEdge :
    (after (.jarEdge 0) (lists 128303 [.gap 4 128301])).reject.slot = .held (.gap 4 128301) 128303 ∧
    let u := after (.jarEdge 0) (lists 128151 [.gap 4 128301])
    u.reject.slot = .stray 128151 ∧ u.counters.check.strays = 1 ∧ u.reject.queue = [128551] := by decide

/-- Section 9.8: jar A holds 791. -/
theorem test_panelReading :
    let u := after (.panelReading 0 ⟨1150, true⟩) (slotted 500012 (.held (.sealed entryA 500000) 500000))
    notices u = [.verdict { head := 3, revolution := 1207, code := 0, flags := 0, vMeas := 791 }] ∧
    u.counters.check.accepts = 1 := by decide

/-- Section 9.8: jar C, predicted at 770, is REJ_PRED when its window closes. -/
theorem test_readingWindowClose :
    let u := after (.readingWindowClose 0)
      (slotted 500340 (.held (.sealed { entryA with vPred := 770 } 500300) 500300))
    notices u = [.verdict { head := 3, revolution := 1207, code := 3, flags := 0x40, vMeas := 65535 }] ∧
    u.reject.queue = [500700] ∧ u.reject.consecutive = 1 := by decide

/-- Section 9.8: the gate at 500,550. -/
theorem test_gatePositionReached :
    let u := after (.gatePositionReached 1000) (gates 500550 [500550, 500610, 500700] none)
    u.reject.output = true ∧ u.reject.pulseEnd = some 31000 ∧ u.reject.queue = [500610, 500700] := by decide

theorem test_rejectPulseEnd :
    (after (.rejectPulseEnd 31000) (gates 0 [] (some 31000))).reject.pulseEnd = none ∧
    (after (.rejectPulseEnd 30999) (gates 0 [] (some 31000))).reject.pulseEnd = some 31000 := by decide

/-- Section 2.13: SELECT-BANK of a usable bank waits, of an unusable one is refused. -/
theorem test_selectBank :
    (after (.selectBank 0 30 named 1) (head 5)).seq.pendingBank = some 1 ∧
    (after (.selectBank 0 30 named 2) (head 5)).counters.refused = 1 := by decide

/-- A COMMAND of address 30, SELECT-BANK with the mask of addresses 5 and 24 and bank 2, its bits and its CRC
written out from R105, R106 and section 6.7; each group of nine ends in a sync bit. -/
theorem test_selectBank_frame :
    frameRow 0 5
      ([0b010011110, 0b000110000, 0b000001000, 0b000001000, 0b000000000, 0b000000000, 0b100000000,
        0b000010010, 0b101111110].flatMap (bitsOf 9) ++ bitsOf 8 0b11101111) =
      some (.selectBank 0 30 named 2) := by decide +kernel

/-- Section 2.13: LOCK, then RESTORE. -/
theorem test_lock_restore :
    let u := after (.lock 0 30 named 0) (head 5)
    u.seq.pendingLock = .lock ∧ (after (.restore 1 30 named 0) u).seq.pendingLock = .none ∧
    (after (.restore 1 30 named 0) (head 5)).seq.pendingLock = .restore := by decide

theorem test_trimReset :
    let u := after (.trimReset 0 31 named 0) (awaits 400 3 true)
    u.verdicts.trims = ⟨0, 0, 0, 0⟩ ∧ notices u = [.state (.recovered 1)] := by decide

theorem test_clearCounts :
    (after (.clearCounts 0 30 named 0) lastPage).counters = Counters.zero := by decide

/-- Section 10.5: five pages from one snapshot, and a second request refused. -/
theorem test_report :
    (notices (after (.report 0 30 named 1) (head 5))).map (·.kind) = [10, 10, 10, 10, 10] ∧
    (after (.report 0 30 named 1) lastPage).counters.refused = 1 := by decide

/-- Section 10.5: the end of the report leaves 1001 − 1000. -/
theorem test_frameSent_ends_report :
    (after (.frameSent 0) lastPage).counters.head.sealsGood = 1 := by decide

/-- Section 9.9. -/
theorem test_releaseStop :
    let u := after (.releaseStop 0 30 named 0) (latched true)
    u.reject.stop = false ∧ u.reject.consecutive = 0 ∧ notices u = [.state .stopReleased] := by decide

theorem test_commandOpUnknown :
    (after (.commandOpUnknown 0 30 named 8 0) (head 5)).counters.refused = 1 ∧
    (after (.commandOpUnknown 0 30 0 8 0) (head 5)).counters.refused = 0 := by decide

/-! ## Numbers of the worked examples -/

/-- Sections 5.8 and 5.10. -/
theorem test_vapourPressure :
    vapourPressure 857 = 603 ∧ vapourPressure 200 = 23 ∧ vapourPressure 1000 = 1013 ∧
    vapourPressure 950 = 857 ∧ residualFraction purge 2900 = 612 := by decide

/-- Sections 5.8, 5.9 and 5.10. -/
theorem test_predictedVacuum :
    predictedVacuum 1013 200 purge 857 2900 = 790 ∧ predictedVacuum 1013 200 purge 857 0 = 655 ∧
    predictedVacuum 1013 200 purge 857 4000 = 823 ∧ predictedVacuum 1013 200 purge 857 20000 = 882 ∧
    predictedVacuum 1013 200 purge 1000 2900 = 990 ∧ predictedVacuum 750 200 purge 950 900 = 727 ∧
    predictedVacuum 1013 200 purge 950 900 = 881 ∧ predictedVacuum 1013 400 purge 0 0 = 0 := by decide

/-- Section 5.11. -/
theorem test_measuredVacuum :
    measuredVacuum 1013 30 181 1150 = 791 ∧ measuredVacuum 1013 30 181 30 = 0 ∧
    measuredVacuum 1013 30 181 (-120) = 0 ∧ measuredVacuum 1013 30 181 1480 = 1013 ∧
    measuredVacuum 1013 30 181 2350 = 1013 := by decide

/-- Section 6.9: a STEAM-OPEN and then a STATE offered to the full queue. -/
theorem test_full_queue :
    let s := fullQueue [.sealed (sealOf 500), .sealed (sealOf 501)]
    let u := s.offer .steamOpen
    (notices u).map (·.kind) = [1, 5, 5, 8, 10, 10, 10, 10] ∧ u.counters.link.txDropped = 1 ∧
    (notices (u.offer (.state (.headLocked 2)))).map (·.kind) = [1, 5, 5, 8, 8, 10, 10, 10] := by decide

end Sys2Proof.Tests
end

section
/-! The dose tick and the expiry of a roster entry (Chapter 3): what each operation does whole, and
the obligations that follow. -/

namespace Sys2Proof.Machine

/-! ### The share of the header and the increment (R64, R65) -/

/-- The valves that draw steam are the head's own and the roster entries not CLOSED. -/
theorem State.openValves_eq (s : State) :
    s.openValves = 1 + (s.steam.roster.filter fun e => e.state ≠ .closed).length := by
  rw [State.openValves, List.countP_eq_length_filter]
  congr 3
  funext e
  rw [RosterEntry.drawsSteam, Bool.eq_iff_iff]
  simp

theorem State.openValves_le (s : State) : s.openValves ≤ s.steam.roster.length + 1 := by
  have := List.countP_le_length (p := RosterEntry.drawsSteam) (l := s.steam.roster)
  unfold State.openValves
  omega

/-- On a crowded header of at most 24 valves the share lies between 10 and 255 parts of 256. -/
theorem loadShare_crowded {k n : Nat} (hkn : k < n) (hk : 1 ≤ k) (hn : n ≤ 24) :
    10 ≤ loadShare k n ∧ loadShare k n ≤ 255 := by
  have hpos : 0 < n := by omega
  rw [loadShare, if_neg (by omega)]
  constructor
  · rw [Nat.le_div_iff_mul_le hpos]
    omega
  · have : 256 * k / n < 256 := (Nat.div_lt_iff_lt_mul hpos).mpr (by omega)
    omega

/-- A full share gives the nominal increment. -/
theorem doseIncrement_full {qn : Nat} (h : 1 ≤ qn) : doseIncrement qn 256 = qn := by
  unfold doseIncrement
  omega

/-- An increment that rounds to 0 counts as 1. -/
theorem doseIncrement_least {share : Nat} (h : share < 128) : doseIncrement 1 share = 1 := by
  unfold doseIncrement
  omega

/-! ### What a dose tick does whole -/

/-- The dose that a tick counts up to (R65). -/
def State.tickDose (s : State) : Nat :=
  min 65535 (s.steam.dose +
    doseIncrement s.config.header.qn (loadShare s.config.header.k s.openValves))

/-- The state once a tick has counted and before T is looked at: the dose stands in the unit and in the
record, and the next tick is due 1 ms after this one was (R63, R65). -/
def State.ticked (s : State) (due : Time) : State :=
  { s with
    steam := { s.steam with dose := s.tickDose, ticks := some (due + 1000#32) }
    seq := { s.seq with record := s.seq.record.map fun r => { r with dose := s.tickDose } } }

/-- A tick that leaves the dose below T only counts. -/
theorem State.takeTick_below {s : State} (due : Time) (h : s.tickDose < s.steam.target.getD 0) :
    s.takeTick due = s.ticked due :=
  if_neg (Nat.not_le.mpr h)

/-- A tick that reaches T in OPEN asks for the valve to be shut. -/
theorem State.takeTick_opened {s : State} (due : Time) (h : s.steam.target.getD 0 ≤ s.tickDose)
    (hv : s.steam.valve = .opened) : s.takeTick due = (s.ticked due).shutRequest .target := by
  refine (if_pos h).trans ?_
  split
  · rfl
  · next hne => exact absurd hv hne

/-- A tick that reaches T in FAULT_OPEN ends the counting of R58 with the result FULL. -/
theorem State.takeTick_faultOpen {s : State} (due : Time) (h : s.steam.target.getD 0 ≤ s.tickDose)
    (hv : s.steam.valve = .faultOpen) :
    s.takeTick due = { s with
      steam := { s.steam with dose := s.tickDose, ticks := none }
      seq := { s.seq with
        record := s.seq.record.map fun r => { r with dose := s.tickDose, steamResult := .full } } } := by
  refine (if_pos h).trans ?_
  split
  · next hopen => exact absurd (hv.symm.trans hopen) (by decide)
  · simp [State.onRecord, State.withSteam, State.withSeq, State.tickDose, Function.comp_def]

/-- A shut request on an open flush that has its dose, in OPEN: the flush ends with its cause and the result
FULL, STEAM-SHUT goes out, and the valve waits in SHUTTING for a feedback that shows open (R54, R56). -/
theorem State.shutRequest_full {s : State} (cause : FlushEnd) (hf : s.steam.flush = .opened)
    (hv : s.steam.valve = .opened) (hd : s.steam.target.getD 0 ≤ s.steam.dose) :
    s.shutRequest cause = ({ s with
      steam := if s.pins.valveOpen then
          { s.steam with
            valve := .shutting, commandOpen := false, flush := .ended, settle := some s.timeBase
            ticks := none }
        else
          { s.steam with
            valve := .shut, commandOpen := false, flush := .ended, settle := none, ticks := none
            attached := false }
      seq := { s.seq with record := s.seq.record.map fun r =>
        { r with flushEnd := cause, steamResult := .full } } } : State).offer .steamShut := by
  have hclose : s.closeFlush cause = { s with
      steam := { s.steam with flush := .ended }
      seq := { s.seq with record := s.seq.record.map fun r =>
        { r with flushEnd := cause, steamResult := .full } } } := by
    simp [State.closeFlush, hd, State.onRecord, State.withSteam, State.withSeq]
  rw [State.shutRequest, if_pos (by simp [hf]), hclose]
  cases hp : s.pins.valveOpen <;> simp [State.shutValve, hv, hp, State.withSteam]

/-- DOSE_TICK in a running head with a tick to come: it is taken once its time is reached. -/
theorem exec_doseTick {s : State} {due : Time} (t : Time) (hr : s.headRuns = true)
    (hd : s.steam.ticks = some due) :
    exec (.doseTick t) s =
      .next (if 0 ≤ since t due then (s.enter t).takeTick due else s.enter t) := by
  have hexec : exec (.doseTick t) s = execDoseTick t s := rfl
  simp [hexec, execDoseTick, hr, hd, reached]

/-! ### What the expiry of a roster entry does whole -/

/-- An entry is due when it is OPEN and its expiry time is reached. -/
theorem State.rosterDue_iff (s : State) (peer : Nat) :
    s.rosterDue peer = true ↔
      ∃ e ∈ s.steam.roster, e.peer = peer ∧
        ∃ expiry, e.state = .opened expiry ∧ 0 ≤ since s.timeBase expiry := by
  simp only [State.rosterDue, List.any_eq_true, Bool.and_eq_true, beq_iff_eq]
  refine exists_congr fun e => and_congr_right fun _ => and_congr_right fun _ => ?_
  cases e.state <;> simp [reached]

/-- The entry of a peer has expired (R61): it is CLOSED and counted stale. -/
def State.rosterExpired (s : State) (peer : Nat) : State :=
  { s with
    steam := { s.steam with
      roster := s.steam.roster.map fun e => if e.peer = peer then { e with state := .closed } else e }
    counters := { s.counters with
      head := { s.counters.head with rosterStale := s.counters.head.rosterStale + 1 } } }

/-- ROSTER_EXPIRY in a running head: the entry expires if it is due. -/
theorem exec_rosterExpiry {s : State} (t : Time) (p : Address) (hr : s.headRuns = true) :
    exec (.rosterExpiry t p) s =
      .next (if (s.enter t).rosterDue p.toNat then (s.enter t).rosterExpired p.toNat else s.enter t) := by
  have hexec : exec (.rosterExpiry t p) s = execRosterExpiry t p s := rfl
  simp [hexec, execRosterExpiry, hr, State.rosterExpired, State.setRoster, State.withSteam,
    State.countHead, State.withCounters]

/-! ### The obligations -/

/-- Settles O30, by the three ways a due tick can go: below T, at T in OPEN, at T in FAULT_OPEN. -/
theorem doseTickCounts : Obligations.DoseTickCounts := by
  intro s t due hr hticks n k qn share i d target w counted e
  have he : e = .next (if 0 ≤ since t due then w.takeTick due else w) := exec_doseTick t hr hticks
  have hopen : s.openValves = n := s.openValves_eq
  have hd : w.tickDose = d := by
    have hv : w.openValves = n := by simp [w, n, State.openValves_eq]
    simp [State.tickDose, hv, w, d, i, share, k, qn, doseIncrement, loadShare]
  have htarget : w.steam.target.getD 0 = target := by simp [w, target]
  refine ⟨fun hno => ?undue, fun hdue hlt => ?below, fun hdue hle hv hf => ?opened,
    fun hdue hle hv => ?faultOpen, hopen ▸ s.openValves_le, loadShare_crowded, fun hs hq => ?full,
    fun hq hs => ?least⟩
  case undue => rw [he, if_neg hno]
  case below =>
    rw [he, if_pos hdue, State.takeTick_below due (by omega)]
    simp [State.ticked, hd, w, counted]
  case opened =>
    have hticked : (w.ticked due).steam = counted := by simp [State.ticked, hd, w, counted]
    rw [he, if_pos hdue, State.takeTick_opened due (by omega) (by simpa [w] using hv),
      State.shutRequest_full .target (by simpa [hticked, counted] using hf)
        (by simpa [hticked, counted] using hv) (by simpa [hticked, counted] using hle), hticked]
    simp [State.ticked, hd, w, counted, Function.comp_def]
  case faultOpen =>
    rw [he, if_pos hdue, State.takeTick_faultOpen due (by omega) (by simpa [w] using hv)]
    simp [hd, w, counted]
  case full =>
    have hi : i = doseIncrement qn share := rfl
    rw [hi, hs, doseIncrement_full hq]
  case least =>
    have hi : i = doseIncrement qn share := rfl
    rw [hi, hq, doseIncrement_least hs]

/-- Settles O32: an entry expires exactly when it is due, and only an OPEN entry can be. -/
theorem rosterEntryExpires : Obligations.RosterEntryExpires := by
  intro s t p hr w
  have hdue := w.rosterDue_iff p.toNat
  simp only [w, State.enter_frame] at hdue
  rw [exec_rosterExpiry t p hr]
  constructor
  · intro e expiry he hp hopen hreached
    rw [if_pos (hdue.mpr ⟨e, he, hp, expiry, hopen, hreached⟩)]
    simp [State.rosterExpired, w]
  · intro hnone
    rw [if_neg]
    rw [hdue]
    rintro ⟨e, he, hp, expiry, hopen, hreached⟩
    exact hnone e he hp expiry hopen hreached

end Sys2Proof.Machine
end

section
/-! Verdict return and dose trim (Chapter 7): how a head takes a VERDICT or a JOIN whole, what a low and a
good result do to a bank, and the obligations that follow. -/

namespace Sys2Proof.Machine

/-! ### A frame that the blocks take -/

/-- With no MUTE to come, a frame from another sender does what the blocks make of it, and no more (R112). -/
theorem State.receive_taken {s : State} (t : Time) {a : Address} {f : State → State}
    (hl : s.link.state = .active ∨ s.link.state = .mute) (hm : s.link.mutePending = false)
    (ha : a ≠ s.node.address) (hf : ∀ x b, f (State.pend b x) = (f x).pend b) :
    (s.enter t).receive a f = f (s.enter t) := by
  have hpend : (s.enter t).pend false = s.enter t := by
    rw [← State.enter_pend, State.pend, ← hm]
  have hidle : (f (s.enter t)).link.mutePending = false := by
    rw [← hpend, hf]
    rfl
  rw [State.receive_delivers s t a f hl ha, State.frameOver_idle _ hidle]

/-- VERDICT_RECEIVED on a receiving link: the list matches a VERDICT that R124 has it take. -/
theorem exec_verdictReceived {s : State} (t : Time) {a : Address} (p : VerdictPayload)
    (hl : s.link.state = .active ∨ s.link.state = .mute) (hm : s.link.mutePending = false)
    (ha : a ≠ s.node.address) :
    exec (.verdictReceived t a p) s =
      .next (if s.takesVerdict a p then (s.enter t).matchVerdict p else s.enter t) := by
  have hexec : exec (.verdictReceived t a p) s = execVerdictReceived t a p s := rfl
  have hown : ∀ x b, (State.pend b x).takesVerdict a p = x.takesVerdict a p := fun _ _ => rfl
  have henter : (s.enter t).takesVerdict a p = s.takesVerdict a p := by
    simp [State.takesVerdict, State.own]
  rw [hexec, execVerdictReceived, State.receive_taken t hl hm ha, henter]
  intro x b
  rw [hown, State.matchVerdict_pend]
  split <;> rfl

/-- JOIN_RECEIVED on a receiving link. -/
theorem exec_joinReceived {s : State} (t : Time) {a : Address} (join : JoinPayload)
    (hl : s.link.state = .active ∨ s.link.state = .mute) (hm : s.link.mutePending = false)
    (ha : a ≠ s.node.address) :
    exec (.joinReceived t a join) s = .next ((s.enter t).hearJoin a) :=
  congrArg _ (State.receive_taken t hl hm ha fun x b => x.hearJoin_pend b a)

/-- A running head takes a VERDICT when it comes from address 24 and names the head (R124). -/
theorem State.takesVerdict_iff {s : State} (hr : s.headRuns = true) (a : Address) (p : VerdictPayload) :
    s.takesVerdict a p = true ↔ a = 24#5 ∧ p.head.toNat = s.own := by
  simp [State.takesVerdict, hr, checkAddress]

/-! ### The match by revolution (R125) -/

/-- A VERDICT whose revolution nothing awaits is counted. -/
theorem State.matchVerdict_unmatched {s : State} {p : VerdictPayload}
    (h : p.revolution ∉ s.verdicts.awaited.map (·.revolution)) :
    s.matchVerdict p =
      s.countHead fun c => { c with verdictsUnmatched := c.verdictsUnmatched + 1 } := by
  rw [State.matchVerdict, splitAtRevolution_none _ _ h]

/-- The entry of the VERDICT's revolution leaves the list and is answered; every older one is given up. -/
theorem State.matchVerdict_matched {s : State} {p : VerdictPayload} {older newer : List Summary} {x : Summary}
    (hq : s.verdicts.awaited = older ++ x :: newer) (hx : x.revolution = p.revolution)
    (ho : p.revolution ∉ older.map (·.revolution)) :
    s.matchVerdict p =
      ((s.withVerdicts { s.verdicts with awaited := newer }).countUnanswered older.length).takeAnswer x p := by
  rw [State.matchVerdict, hq, splitAtRevolution_some _ older newer x hx ho]

/-! ### The answers that count (R127) -/

/-- The conditions of R127 on an entry and its VERDICT. -/
theorem answerCounts_iff (x : Summary) (p : VerdictPayload) :
    answerCounts x p = true ↔ x.capVerdict = .good ∧ p.vMeas ≠ 65535#16 ∧ p.code.toNat ≤ 4 ∧ 0 < x.dose ∧
      ∃ y, x.vPred = some y ∧ 0 < y := by
  have hpred : 0 < x.vPred.getD 0 ↔ ∃ y, x.vPred = some y ∧ 0 < y := by
    cases x.vPred <;> simp
  simp [answerCounts, noMeasurement, hpred, and_assoc]

/-- An answer that does not count changes nothing. -/
theorem State.takeAnswer_ignored {s : State} {x : Summary} {p : VerdictPayload}
    (hc : answerCounts x p ≠ true) : s.takeAnswer x p = s :=
  if_neg hc

/-- A measurement below V_min plus the margin is a low result (R128). -/
theorem State.takeAnswer_low {s : State} {x : Summary} {p : VerdictPayload} (hc : answerCounts x p = true)
    (hlow : p.vMeas.toNat < (s.bankOf x.bank).vMin + (s.bankOf x.bank).trimMargin) :
    s.takeAnswer x p = s.lowResult x.bank := by
  rw [State.takeAnswer, if_pos hc, if_pos hlow]

/-- Any other measurement is a good result (R129). -/
theorem State.takeAnswer_good {s : State} {x : Summary} {p : VerdictPayload} (hc : answerCounts x p = true)
    (hlow : ¬ p.vMeas.toNat < (s.bankOf x.bank).vMin + (s.bankOf x.bank).trimMargin) :
    s.takeAnswer x p = s.goodResult x.bank := by
  rw [State.takeAnswer, if_pos hc, if_neg hlow]

/-! ### A low result (R128, R130) -/

/-- Below its maximum the trim rises by one step. -/
theorem State.lowResult_raises {s : State} {b : BankId}
    (ht : s.verdicts.trims.get b ≠ (s.bankOf b).trimMax) :
    s.lowResult b = s.withVerdicts { s.verdicts with
      trims := s.verdicts.trims.set b
        (min (s.bankOf b).trimMax (s.verdicts.trims.get b + (s.bankOf b).trimStep))
      goodRun := s.verdicts.goodRun.set b 0 } := by
  rw [State.lowResult, if_neg ht]
  rfl

/-- At its maximum the trim stays, and a bank already degraded stays so. -/
theorem State.lowResult_degraded {s : State} {b : BankId}
    (ht : s.verdicts.trims.get b = (s.bankOf b).trimMax) (hd : s.verdicts.degraded.get b = true) :
    s.lowResult b = s.withVerdicts { s.verdicts with goodRun := s.verdicts.goodRun.set b 0 } := by
  rw [State.lowResult, if_pos ht, State.setDegraded, if_pos hd]
  rfl

/-- At its maximum the trim stays, and a bank not yet degraded becomes so with DEGRADED. -/
theorem State.lowResult_degrades {s : State} {b : BankId}
    (ht : s.verdicts.trims.get b = (s.bankOf b).trimMax) (hd : s.verdicts.degraded.get b = false) :
    s.lowResult b = (s.withVerdicts { s.verdicts with
      goodRun := s.verdicts.goodRun.set b 0
      degraded := s.verdicts.degraded.set b true }).offer (.state (.degraded b)) := by
  rw [State.lowResult, if_pos ht, State.setDegraded_clear hd]
  simp [State.setGoodRun, State.withVerdicts_offer, State.withVerdicts_twice]

/-! ### A good result (R129, R131) -/

/-- Before the eighth in a row a good result is counted. -/
theorem State.goodResult_counted {s : State} {b : BankId} (hrun : s.verdicts.goodRun.get b < 7) :
    s.goodResult b = s.withVerdicts { s.verdicts with
      goodRun := s.verdicts.goodRun.set b (s.verdicts.goodRun.get b + 1) } :=
  if_neg (show ¬ goodRunLength ≤ _ by unfold goodRunLength; omega)

/-- The eighth in a row lowers the trim by one step and starts the count again. -/
theorem State.goodResult_eighth {s : State} {b : BankId} (hrun : 7 ≤ s.verdicts.goodRun.get b) :
    s.goodResult b =
      (s.setGoodRun b 0).setTrim b (s.verdicts.trims.get b - (s.bankOf b).trimStep) :=
  if_pos (show goodRunLength ≤ _ by unfold goodRunLength; omega)

/-- The trim of a bank is replaced and no degraded condition ends: the new trim is not below the maximum, or
the bank is not degraded. -/
theorem State.setTrim_plain {s : State} {b : BankId} {trim : Nat}
    (h : ¬ (trim < (s.bankOf b).trimMax ∧ s.verdicts.degraded.get b = true)) :
    s.setTrim b trim = s.withVerdicts { s.verdicts with trims := s.verdicts.trims.set b trim } := by
  rw [State.setTrim, State.recover_withVerdicts]
  by_cases hlt : trim < (s.bankOf b).trimMax
  · rw [if_pos hlt, if_neg fun hd => h ⟨hlt, hd⟩]
  · rw [if_neg hlt]

/-- A trim set below its maximum ends the degraded condition of its bank with RECOVERED. -/
theorem State.setTrim_recovers {s : State} {b : BankId} {trim : Nat}
    (h : trim < (s.bankOf b).trimMax ∧ s.verdicts.degraded.get b = true) :
    s.setTrim b trim = (s.withVerdicts { s.verdicts with
      trims := s.verdicts.trims.set b trim
      degraded := s.verdicts.degraded.set b false }).offer (.state (.recovered b)) := by
  rw [State.setTrim, State.recover_withVerdicts, if_pos h.1, if_pos h.2, State.withVerdicts_offer]

/-- The eighth in a row, with no degraded condition that the lower trim ends. -/
theorem State.goodResult_lowers {s : State} {b : BankId} (hrun : 7 ≤ s.verdicts.goodRun.get b)
    (h : ¬ (s.verdicts.trims.get b - (s.bankOf b).trimStep < (s.bankOf b).trimMax ∧
      s.verdicts.degraded.get b = true)) :
    s.goodResult b = s.withVerdicts { s.verdicts with
      goodRun := s.verdicts.goodRun.set b 0
      trims := s.verdicts.trims.set b (s.verdicts.trims.get b - (s.bankOf b).trimStep) } := by
  rw [State.goodResult_eighth hrun, State.setTrim_plain (s := s.setGoodRun b 0) h]
  rfl

/-- The eighth in a row, with a trim that falls below its maximum in a degraded bank. -/
theorem State.goodResult_recovers {s : State} {b : BankId} (hrun : 7 ≤ s.verdicts.goodRun.get b)
    (h : s.verdicts.trims.get b - (s.bankOf b).trimStep < (s.bankOf b).trimMax ∧
      s.verdicts.degraded.get b = true) :
    s.goodResult b = (s.withVerdicts { s.verdicts with
      goodRun := s.verdicts.goodRun.set b 0
      trims := s.verdicts.trims.set b (s.verdicts.trims.get b - (s.bankOf b).trimStep)
      degraded := s.verdicts.degraded.set b false }).offer (.state (.recovered b)) := by
  rw [State.goodResult_eighth hrun, State.setTrim_recovers (s := s.setGoodRun b 0) h]
  rfl

/-! ### The check node's JOIN (R126) -/

/-- A running head hears a JOIN: the sender's roster entry is CLOSED, and from address 24 the awaited seals
are given up. -/
theorem State.hearJoin_head {s : State} (hr : s.headRuns = true) (a : Address) :
    s.hearJoin a = if a = 24#5 then (s.setRoster a.toNat .closed).forgetAwaited
      else s.setRoster a.toNat .closed := by
  simp [State.hearJoin, hr, checkAddress]

/-! ### The obligations -/

/-- Settles O45: an unmatched VERDICT is counted, and a matched one goes by the result it brings and by
where its bank's trim, good-run count and degraded flag stand. -/
theorem verdictAnswers : Obligations.VerdictAnswers := by
  intro s t p hr hl hm ha hown w v c e
  have hwv : w.verdicts = v := by simp [w, v]
  have hwc : w.counters = s.counters := by simp [w]
  have he : e = .next (w.matchVerdict p) :=
    (exec_verdictReceived t p hl hm ha.symm).trans
      (by rw [if_pos ((s.takesVerdict_iff hr _ p).mpr ⟨rfl, hown⟩)])
  refine ⟨fun a hne hna => ?otherSender, fun q hq => ?otherHead, fun hnone => ?unmatched,
    fun older x newer hq hx ho => ?matched⟩
  case otherSender =>
    rw [exec_verdictReceived t p hl hm hna, if_neg fun h => hne ((s.takesVerdict_iff hr a p).mp h).1]
  case otherHead =>
    rw [exec_verdictReceived t q hl hm ha.symm, if_neg fun h => hq ((s.takesVerdict_iff hr _ q).mp h).2]
  case unmatched =>
    rw [he, State.matchVerdict_unmatched (by rwa [hwv])]
    simp [State.countHead, State.withCounters, hwc, c]
  case matched =>
    intro b bank trim run counts low lowered recovers after
    have hafter : e = .next ((after v).takeAnswer x p) := by
      rw [he, State.matchVerdict_matched (by rwa [hwv]) hx ho]
      simp [State.countUnanswered, State.countHead, State.withCounters, State.withVerdicts, hwc, hwv,
        after, c]
    have hbank : (after v).bankOf b = bank := by simp [after, State.bankOf, w, bank]
    have hlowered : (after v).verdicts.trims.get b - ((after v).bankOf b).trimStep = lowered := by
      rw [hbank]
      exact (Nat.zero_max _).symm
    have hrecovers : (after v).verdicts.trims.get b - ((after v).bankOf b).trimStep <
        ((after v).bankOf b).trimMax ∧ (after v).verdicts.degraded.get b = true ↔ recovers := by
      rw [hlowered, hbank]
    have hcounts : answerCounts x p = true ↔ counts := answerCounts_iff x p
    have hlowResult (hc : counts) (hlow : low) : e = .next ((after v).lowResult b) := by
      rw [hafter, State.takeAnswer_low (hcounts.mpr hc) (by rwa [hbank])]
    have hgoodResult (hc : counts) (hlow : ¬ low) : e = .next ((after v).goodResult b) := by
      rw [hafter, State.takeAnswer_good (hcounts.mpr hc) (by rwa [hbank])]
    refine ⟨fun hc => ?ignored, fun hc hlow ht => ?raised, fun hc hlow ht hd => ?degraded,
      fun hc hlow ht hd => ?degrades, fun hc hlow hrun => ?counted, fun hc hlow hrun hno => ?lowered,
      fun hc hlow hrun hrec => ?recovered⟩
    case ignored => rw [hafter, State.takeAnswer_ignored (mt hcounts.mp hc)]
    case raised =>
      rw [hlowResult hc hlow, State.lowResult_raises (s := after v) (by rwa [hbank]), hbank]
      rfl
    case degraded =>
      rw [hlowResult hc hlow, State.lowResult_degraded (s := after v) (by rwa [hbank]) hd]
      rfl
    case degrades =>
      rw [hlowResult hc hlow, State.lowResult_degrades (s := after v) (by rwa [hbank]) hd]
      rfl
    case counted =>
      rw [hgoodResult hc hlow, State.goodResult_counted (s := after v) hrun]
      rfl
    case lowered =>
      rw [hgoodResult hc hlow, State.goodResult_lowers (s := after v) hrun (mt hrecovers.mp hno), hlowered]
      rfl
    case recovered =>
      rw [hgoodResult hc hlow, State.goodResult_recovers (s := after v) hrun (hrecovers.mpr hrec), hlowered]
      rfl

/-- Settles O46: the JOIN reaches the roster from any address, the awaited seals from address 24 alone. -/
theorem checkJoinForgetsAwaited : Obligations.CheckJoinForgetsAwaited := by
  intro s t join hr hl hm ha heard
  have hroster (p : Nat) :
      (s.enter t).setRoster p .closed = { s.enter t with steam := heard p } := by
    simp [State.setRoster, State.withSteam, heard]
  have hjoin {a : Address} (hna : a ≠ s.node.address) :=
    (exec_joinReceived t join hl hm hna).trans
      (congrArg _ (State.hearJoin_head (s := s.enter t) (by simpa using hr) a))
  refine ⟨?_, fun a hne hna => ?_⟩
  · rw [hjoin ha.symm, if_pos rfl, hroster]
    simp [State.forgetAwaited, State.countUnanswered, State.countHead, State.withCounters,
      State.withVerdicts]
  · rw [hjoin hna, if_neg hne, hroster]

end Sys2Proof.Machine
end

section
/-! Jar transit (Chapter 8): what a record or a JOIN does at the check node, what a jar edge does by the
front entry, and the obligations that follow. -/

namespace Sys2Proof.Machine

/-! ### Records and JOINs at the check node (R137, R139) -/

/-- A node has one role. -/
theorem State.headRuns_of_checkRuns {s : State} (h : s.checkRuns = true) : s.headRuns = false := by
  have hrole : s.node.role = .check := by
    simp only [State.checkRuns, Bool.and_eq_true, beq_iff_eq] at h
    exact h.2
  simp [State.headRuns, hrole]

/-- SEAL_RECEIVED on a receiving link of a running check node. -/
theorem exec_sealReceived {s : State} (t : Time) {a : Address} (x : SealPayload) (hr : s.checkRuns = true)
    (hl : s.link.state = .active ∨ s.link.state = .mute) (hm : s.link.mutePending = false)
    (ha : a ≠ s.node.address) :
    exec (.sealReceived t a x) s = .next ((s.enter t).takeSeal a x) := by
  have hexec : exec (.sealReceived t a x) s = execSealReceived t a x s := rfl
  rw [hexec, execSealReceived, State.receive_taken t hl hm ha, if_pos (by simpa using hr)]
  intro y b
  exact State.pend_ite Iff.rfl (y.takeSeal_pend b a x) rfl

/-- VOID_RECEIVED on a receiving link of a running check node. -/
theorem exec_voidReceived {s : State} (t : Time) {a : Address} (y : VoidPayload) (hr : s.checkRuns = true)
    (hl : s.link.state = .active ∨ s.link.state = .mute) (hm : s.link.mutePending = false)
    (ha : a ≠ s.node.address) :
    exec (.voidReceived t a y) s = .next ((s.enter t).takeVoid a y) := by
  have hexec : exec (.voidReceived t a y) s = execVoidReceived t a y s := rfl
  rw [hexec, execVoidReceived, State.receive_taken t hl hm ha, if_pos (by simpa using hr)]
  intro x b
  exact State.pend_ite Iff.rfl (x.takeVoid_pend b a y) rfl

/-- A running check node hears a JOIN as its transit tracker does. -/
theorem State.hearJoin_check {s : State} (hr : s.checkRuns = true) (a : Address) :
    s.hearJoin a = s.forgetRevolution a := by
  simp [State.hearJoin, hr, State.headRuns_of_checkRuns hr]

/-- A sender past the last pocket is no head, and the tracker ignores it. -/
theorem State.ignores_nonHead {s : State} {a : Address} (h : s.config.header.n ≤ a.toNat) :
    (∀ x, s.takeSeal a x = s) ∧ (∀ y, s.takeVoid a y = s) ∧ s.forgetRevolution a = s :=
  have hno : ¬ a.toNat < s.config.header.n := Nat.not_lt.mpr h
  ⟨fun _ => if_neg hno, fun _ => if_neg hno, if_neg hno⟩

/-- A record with the last revolution of its pocket is counted and changes nothing else (R138). -/
theorem State.takeRecord_duplicate {s : State} {p : Nat} {revolution : Half} (entry : TransitEntry)
    (h : s.transit.lastRev.getD p none = some revolution) :
    s.takeRecord p revolution entry = s.countCheck fun c => { c with duplicates := c.duplicates + 1 } :=
  if_pos h

/-! ### A jar edge (R149 to R151, R157, R158) -/

/-- With a front window that has not been passed, no window closes. -/
theorem State.closeWindows_none {s : State} (h : ∀ e, s.transit.entries.head? = some e →
    ¬ 1 ≤ since s.transit.position (e.expected + s.halfWidth)) : s.closeWindows = s := by
  obtain ⟨htake, hdrop⟩ := List.split_at_first s.windowPassed [] s.transit.entries
    (by simp) fun e he => decide_eq_false (h e he)
  rw [List.nil_append] at htake hdrop
  rw [State.closeWindows, htake, hdrop]
  rfl

/-- JAR_EDGE at a running check node: the jar is counted for life, and with no passed window in front it is
handled by the front entry. -/
theorem exec_jarEdge {s : State} (t : Time) (hr : s.checkRuns = true)
    (h : ∀ e, s.transit.entries.head? = some e →
      ¬ 1 ≤ since s.transit.position (e.expected + s.halfWidth)) :
    exec (.jarEdge t) s =
      .next ((s.enter t).countLifetime fun l => { l with one := l.one + 1 }).jarArrives := by
  have hexec : exec (.jarEdge t) s = execJarEdge t s := rfl
  rw [hexec, execJarEdge, if_pos (by simpa using hr), State.closeWindows_none]
  simpa [State.halfWidth] using h

/-- A jar comes before a window when its distance to the window's start is negative. -/
theorem State.beforeWindow_iff (s : State) (e : TransitEntry) :
    s.beforeWindow e = true ↔ since s.transit.position (e.expected - s.halfWidth) < 0 := by
  simp [State.beforeWindow, reached]

/-- On an empty list a jar is a stray (R149). -/
theorem State.jarArrives_nil {s : State} (h : s.transit.entries = []) :
    s.jarArrives = s.strayArrives := by
  rw [State.jarArrives, h]

/-- Before the front window a jar is a stray (R149). -/
theorem State.jarArrives_before {s : State} {e : TransitEntry} {rest : List TransitEntry}
    (h : s.transit.entries = e :: rest) (hb : s.beforeWindow e = true) :
    s.jarArrives = s.strayArrives := by
  simp only [State.jarArrives, h, hb, if_true]

/-- In a VOID's window a jar removes the entry and is a stray (R151). -/
theorem State.jarArrives_void {s : State} {p : Nat} {r : Half} {x : Position} {rest : List TransitEntry}
    (h : s.transit.entries = .void p r x :: rest) (hb : ¬ s.beforeWindow (.void p r x) = true) :
    s.jarArrives = (s.withTransit { s.transit with entries := rest }).strayArrives := by
  simp only [State.jarArrives, h, if_neg hb]

/-- In a SEAL's window a jar is a match with the entry removed (R150). -/
theorem State.jarArrives_sealed {s : State} {m : SealEntry} {x : Position} {rest : List TransitEntry}
    (h : s.transit.entries = .sealed m x :: rest) (hb : ¬ s.beforeWindow (.sealed m x) = true) :
    s.jarArrives = (s.withTransit { s.transit with entries := rest }).takeMatch (.sealed m x)
      s.transit.position := by
  simp only [State.jarArrives, h, if_neg hb]

/-- In a GAP's window a jar is a match with the entry removed (R150). -/
theorem State.jarArrives_gap {s : State} {p : Nat} {x : Position} {rest : List TransitEntry}
    (h : s.transit.entries = .gap p x :: rest) (hb : ¬ s.beforeWindow (.gap p x) = true) :
    s.jarArrives = (s.withTransit { s.transit with entries := rest }).takeMatch (.gap p x)
      s.transit.position := by
  simp only [State.jarArrives, h, if_neg hb]

/-- A stray is counted, the slot settled and made STRAY, and the jar rejected (R151, R158). -/
theorem State.strayArrives_rejected (s : State) : ∃ v : State,
    v.Settled (s.countCheck fun c => { c with strays := c.strays + 1 }) ∧
    s.strayArrives.Rejected { v with reject := { v.reject with slot := .stray s.transit.position } }
      s.transit.position :=
  ⟨_, State.settleSlot_settled _, State.rejectJar_rejected _ _⟩

/-- A matched entry is held in the slot once that has been settled (R157). -/
theorem State.takeMatch_held (s : State) (m : Matched) (x : Position) : ∃ v : State,
    v.Settled s ∧ s.takeMatch m x = { v with reject := { v.reject with slot := .held m x } } :=
  ⟨_, State.settleSlot_settled _, rfl⟩

/-! ### The obligations -/

/-- Settles O47: SEAL and VOID are one record to the tracker, a duplicate or a new one. -/
theorem recordsJoinTheList : Obligations.RecordsJoinTheList := by
  intro s t a x y join hr hl hm ha w tr n p c exp
  have hrw : w.checkRuns = true := by simpa [w] using hr
  have htransit : w.transit = tr := by simp [w, tr]
  have hcounters : w.counters = s.counters := by simp [w]
  have hconfig : w.config = s.config := by simp [w]
  have hn : w.config.header.n = n := by rw [hconfig]
  have hexp : w.expectedNow = exp := by simp [State.expectedNow, htransit, hconfig, exp]
  have hseal : exec (.sealReceived t a x) s = .next (w.takeSeal a x) := exec_sealReceived t x hr hl hm ha
  have hvoid : exec (.voidReceived t a y) s = .next (w.takeVoid a y) := exec_voidReceived t y hr hl hm ha
  have hjoin : exec (.joinReceived t a join) s = .next (w.forgetRevolution a) :=
    (exec_joinReceived t join hl hm ha).trans (congrArg _ (State.hearJoin_check hrw a))
  refine ⟨fun hp => ?nonHead, fun hp => ?join, fun take revolution entry hp hform => ?record⟩
  case nonHead =>
    obtain ⟨hnoSeal, hnoVoid, hnoJoin⟩ := State.ignores_nonHead (s := w) (a := a) (hn ▸ hp)
    rw [hseal, hvoid, hjoin, hnoSeal, hnoVoid, hnoJoin]
    exact ⟨rfl, rfl, rfl⟩
  case join =>
    rw [hjoin, State.forgetRevolution, if_pos (hn ▸ hp), htransit]
    rfl
  case record =>
    have htake : exec take s = .next (w.takeRecord p revolution entry) := by
      have hpw : a.toNat < w.config.header.n := hn ▸ hp
      rcases hform with ⟨rfl, rfl, rfl⟩ | ⟨rfl, rfl, rfl⟩
      · rw [hseal, State.takeSeal, if_pos hpw, State.sealEntry, hexp, hconfig]
        rfl
      · rw [hvoid, State.takeVoid, if_pos hpw, hexp]
    constructor
    · intro hdup
      rw [htake, State.takeRecord_duplicate entry (by rwa [htransit]), State.countCheck, hcounters]
      rfl
    · intro hnew
      obtain ⟨gaps, fault, hnone, hsome, hwhole⟩ :=
        State.takeRecord_new w p revolution entry (by rwa [htransit])
      rw [htransit] at hnone
      rw [htransit, hn, hexp] at hsome
      rw [htransit, hn, hcounters] at hwhole
      exact ⟨gaps, fault, hnone, hsome, htake.trans (congrArg _ hwhole)⟩

/-- Settles O49, by the ways `State.jarArrives` can go: no entry, before the front window, and in the window
of each kind of entry. -/
theorem jarArrives : Obligations.JarArrives := by
  intro s t hr pos half hwindow w taken stray matched
  have hw : (s.enter t).countLifetime (fun l => { l with one := l.one + 1 }) = w := by
    simp [State.countLifetime, State.withConfig, w]
  have htransit : w.transit = s.transit := by simp [w]
  have hbefore (e : TransitEntry) : w.beforeWindow e = true ↔ since pos (e.expected - half) < 0 := by
    rw [State.beforeWindow_iff, htransit]
    rfl
  have htaken (rest : List TransitEntry) :
      w.withTransit { w.transit with entries := rest } = taken rest := by
    rw [htransit]
    rfl
  have hstray (v : State) (hp : v.transit.position = pos) (hc : v.counters = s.counters) :
      stray v.strayArrives v := by
    obtain ⟨u, hsettled, hrejected⟩ := v.strayArrives_rejected
    rw [State.countCheck, hc] at hsettled
    rw [hp] at hrejected
    exact ⟨u, hsettled, hrejected⟩
  have hstrayTaken (rest : List TransitEntry) : stray (taken rest).strayArrives (taken rest) :=
    hstray _ rfl (by simp [taken, w])
  have hstrayFirst : stray w.strayArrives w := hstray w (by rw [htransit]) (by simp [w])
  have hmatched (rest : List TransitEntry) (m : Matched) :
      matched ((taken rest).takeMatch m pos) (taken rest) m := State.takeMatch_held _ m pos
  refine ⟨w.jarArrives, ?taken, fun hnil => ?empty, fun e rest hq => ⟨fun hb => ?before,
    fun hb p r x he => ?void, fun hb m x he => ?sealed, fun hb p x he => ?gap⟩⟩
  case taken => rw [exec_jarEdge t hr hwindow, hw]
  case empty =>
    rw [State.jarArrives_nil (by rwa [htransit])]
    exact hstrayFirst
  case before =>
    rw [State.jarArrives_before (by rwa [htransit]) ((hbefore e).mpr hb)]
    exact hstrayFirst
  case void =>
    subst he
    rw [State.jarArrives_void (by rwa [htransit]) (mt (hbefore _).mp hb), htaken]
    exact hstrayTaken rest
  case sealed =>
    subst he
    rw [State.jarArrives_sealed (by rwa [htransit]) (mt (hbefore _).mp hb), htaken, htransit]
    exact hmatched rest _
  case gap =>
    subst he
    rw [State.jarArrives_gap (by rwa [htransit]) (mt (hbefore _).mp hb), htaken, htransit]
    exact hmatched rest _

end Sys2Proof.Machine
end

section
/-! Inspection (Chapter 9): what a panel reading and the close of its window do by the reading slot, and the
obligation that follows. -/

namespace Sys2Proof.Machine

/-! ### A reading heard (R159, R163) -/

/-- The check node once a reading has been heard and before the slot is looked at: status OK ends the
no-reading run and the sensor fallback, the latter with its notice (R159, R163). -/
def State.heard (s : State) (r : SensorReading) : State :=
  let reads := { s with reject := { s.reject with noReading := 0, fallback := false } }
  if r.ok = false then s
  else if s.reject.fallback then reads.offer (.state .sensorOk) else reads

/-- Hearing a reading as the model does it. -/
theorem State.heard_eq (s : State) (r : SensorReading) :
    (if r.ok then s.sensorReads else s) = s.heard r := by
  cases hok : r.ok
  · simp [State.heard, hok]
  · cases hf : s.reject.fallback <;>
      simp [State.heard, State.sensorReads, State.withReject, hok, hf]

/-- Hearing a reading leaves the slot. -/
@[simp] theorem State.heard_slot (s : State) (r : SensorReading) :
    (s.heard r).reject.slot = s.reject.slot := by
  simp only [State.heard]
  split
  · rfl
  · split <;> simp

/-! ### A reading taken by the slot (R159) -/

/-- A reading that finds the slot EMPTY is an orphan. -/
theorem State.takeReading_empty {s : State} (r : SensorReading) (h : s.reject.slot = .empty) :
    s.takeReading r = (s.heard r).countCheck fun c => { c with orphanReadings := c.orphanReadings + 1 } := by
  simp only [State.takeReading, State.heard_eq, State.heard_slot, h]

/-- A STRAY slot absorbs the reading. -/
theorem State.takeReading_stray {s : State} {x : Position} (r : SensorReading)
    (h : s.reject.slot = .stray x) :
    s.takeReading r = (s.heard r).withReject { (s.heard r).reject with slot := .empty } := by
  simp only [State.takeReading, State.heard_eq, State.heard_slot, h]

/-- A HELD entry leaves the slot and is judged with the reading. -/
theorem State.takeReading_held {s : State} {e : Matched} {x : Position} (r : SensorReading)
    (h : s.reject.slot = .held e x) :
    s.takeReading r =
      ((s.heard r).withReject { (s.heard r).reject with slot := .empty }).judge e x (some r) := by
  simp only [State.takeReading, State.heard_eq, State.heard_slot, h]

/-! ### The reading window (R160) -/

/-- An EMPTY slot has no window. -/
theorem State.readingWindowDue_empty {s : State} (h : s.reject.slot = .empty) :
    ¬ s.readingWindowDue = true := by
  simp [State.readingWindowDue, h]

/-- A jar in the slot, matched or stray, has its window closed R_read past its arrival. -/
theorem State.readingWindowDue_iff {s : State} {x : Position}
    (h : s.reject.slot = .stray x ∨ ∃ e, s.reject.slot = .held e x) :
    s.readingWindowDue = true ↔
      0 ≤ since s.transit.position (x + BitVec.ofNat 32 s.config.header.rRead) := by
  rcases h with h | ⟨e, h⟩ <;> simp [State.readingWindowDue, h, reached]

/-! ### The commands at a running check node -/

/-- PANEL_READING hands its reading to the slot. -/
theorem exec_panelReading {s : State} (t : Time) (r : SensorReading) (hr : s.checkRuns = true) :
    exec (.panelReading t r) s = .next ((s.enter t).takeReading r) := by
  have hexec : exec (.panelReading t r) s = execPanelReading t r s := rfl
  rw [hexec, execPanelReading, if_pos (by simpa using hr)]

/-- READING_WINDOW_CLOSE with the window closed settles the slot. -/
theorem exec_readingWindowClose_due {s : State} (t : Time) (hr : s.checkRuns = true)
    (h : (s.enter t).readingWindowDue = true) :
    exec (.readingWindowClose t) s = .next (s.enter t).settleSlot := by
  have hexec : exec (.readingWindowClose t) s = execReadingWindowClose t s := rfl
  rw [hexec, execReadingWindowClose, if_pos (by simp [hr, h])]

/-- READING_WINDOW_CLOSE with the window open changes nothing. -/
theorem exec_readingWindowClose_open {s : State} (t : Time)
    (h : ¬ (s.enter t).readingWindowDue = true) :
    exec (.readingWindowClose t) s = .next (s.enter t) := by
  have hexec : exec (.readingWindowClose t) s = execReadingWindowClose t s := rfl
  rw [hexec, execReadingWindowClose, if_neg (by simp [h])]

/-! ### The obligation -/

/-- Settles O50, by the three states of the reading slot. -/
theorem readingsJudge : Obligations.ReadingsJudge := by
  intro s t r hr w reads heard cleared due
  have hreject : w.reject = s.reject := by simp [w]
  have hheard : w.heard r = heard := by rw [State.heard, hreject]
  have hread : exec (.panelReading t r) s = .next (w.takeReading r) := exec_panelReading t r hr
  have hdue {x : Position} (h : s.reject.slot = .stray x ∨ ∃ e, s.reject.slot = .held e x) :
      w.readingWindowDue = true ↔ due x := by
    rw [State.readingWindowDue_iff (x := x) (by rwa [hreject])]
    simp [w, due]
  obtain ⟨hsettledHeld, hsettledElse⟩ := w.settleSlot_settled
  refine ⟨fun hempty => ?empty, fun x hstray => ?stray, fun e x hheld => ?held⟩
  case empty =>
    have hslot : w.reject.slot = .empty := by rwa [hreject]
    rw [hread, State.takeReading_empty r hslot, hheard]
    exact ⟨rfl, exec_readingWindowClose_open t (State.readingWindowDue_empty hslot)⟩
  case stray =>
    have hslot : w.reject.slot = .stray x := by rwa [hreject]
    have hwindow := hdue (.inl hstray)
    refine ⟨?_, fun hd => ?_, fun hd => exec_readingWindowClose_open t (mt hwindow.mp hd)⟩
    · rw [hread, State.takeReading_stray r hslot, hheard]
      rfl
    · rw [exec_readingWindowClose_due t hr (hwindow.mpr hd)]
      exact congrArg _ (hsettledElse (by simp [hslot]))
  case held =>
    have hslot : w.reject.slot = .held e x := by rwa [hreject]
    have hwindow := hdue (.inr ⟨e, hheld⟩)
    refine ⟨⟨_, hread, ?_⟩, fun hd => ⟨_, exec_readingWindowClose_due t hr (hwindow.mpr hd), ?_⟩,
      fun hd => exec_readingWindowClose_open t (mt hwindow.mp hd)⟩
    · rw [State.takeReading_held r hslot, hheard]
      exact State.judge_judged _ e x (some r)
    · exact hsettledHeld e x hslot

end Sys2Proof.Machine
end

section
/-! What one step keeps: a law kept by every command is kept by every step (log 2), and the laws of the
configuration memory and of the transmit queue. -/

namespace Sys2Proof.Machine

/-! ### From commands to steps -/

/-- A law that does not read the waiting commands, and that every command keeps, is kept by every step. -/
theorem step_keeps {P : State → Prop} (hpending : ∀ s cs, P s → P { s with pending := cs })
    (hexec : ∀ c s u, P s → exec c s = .next u → P u) {s u : State} (h : P s) (hu : step s = .next u) :
    P u := by
  unfold step at hu
  split at hu
  · exact Host.Outcome.next.inj hu ▸ h
  · next c rest _ => exact hexec c _ u (hpending s rest h) hu

/-- A command with a sample event ahead of it keeps a law that its effect and the two halves of the sample
keep (log 12). -/
theorem State.afterSample_keeps {P : State → Prop} {s : State} (ahead : Option SampleEvent)
    {f : State → State} (h : P s) (hunit : ∀ x e, P x → P (x.unitTakes e).1) (hf : ∀ x, P x → P (f x))
    (hreport : ∀ x p, P x → P (x.takeReport p)) : P (s.afterSample ahead f) := by
  cases ahead with
  | none => exact hf s h
  | some e => exact hreport _ _ (hf _ (hunit s e h))

/-! ### The configuration memory -/

/-- The law reads the memory and the running save alone. -/
theorem State.memoryOk_of_eq {s u : State} (h : s.memoryOk) (hm : u.memory = s.memory)
    (hs : u.node.saving = s.node.saving) : u.memoryOk := by
  unfold State.memoryOk
  rwa [hm, hs]

theorem State.takeAssertion_memoryOk {s : State} (h : s.memoryOk) : s.takeAssertion.memoryOk := by
  unfold State.takeAssertion
  split
  · exact h
  · exact State.takeWarning_memoryOk h

/-- Every command keeps the memory canonical and a running save within it. -/
theorem exec_memoryOk {c : Instr} {s u : State} (h : s.memoryOk) (hu : exec c s = .next u) :
    u.memoryOk := by
  have henter : ∀ t, (s.enter t).memoryOk := fun t => State.memoryOk_of_eq h (by simp) (by simp)
  cases hc : startsOrSaves c
  case false =>
    obtain ⟨-, hnode, hmemory, -⟩ := exec_sameNode hc hu
    exact State.memoryOk_of_eq h hmemory (by rw [hnode])
  case true =>
    cases c <;> simp only [startsOrSaves, Bool.false_eq_true] at hc <;> cases hu
    case powerOnReset =>
      refine State.startSequence_memoryOk ?_ _ _
      exact State.cutSave_wf h _
    case resetLine => exact State.startSequence_memoryOk (State.cutSave_wf h _) _ _
    case crystalReady t =>
      split
      · exact State.memoryOk_of_eq (henter t) (by simp) (by simp)
      · exact henter t
    case crystalWaitExpiry t =>
      split
      · exact State.memoryOk_of_eq (henter t) (by simp) (by simp)
      · exact henter t
    case powerWarningAsserted m =>
      exact State.afterSample_keeps _ (henter _)
        (fun x e hx => State.memoryOk_of_eq hx (by simp) (by simp)) (fun x => State.takeAssertion_memoryOk)
        (fun x p hx => State.memoryOk_of_eq hx (by simp) (by simp))
    case saveComplete t start =>
      have hdone := State.finishSave_memoryOk (henter t)
      split
      · dsimp only
        split
        · exact hdone
        · exact State.startSequence_memoryOk hdone.1 _ _
      · exact henter t
    case powerWarningNegated t start =>
      split
      · dsimp only
        split
        · refine State.startSequence_memoryOk ?_ _ _
          exact (henter t).1
        · exact henter t
      · exact henter t

/-- Settles O56: the start and power commands alone touch the memory or a running save. -/
theorem memoryKept : Obligations.MemoryKept :=
  fun _ _ => step_keeps (fun _ _ h => h) fun _ _ _ => exec_memoryOk

end Sys2Proof.Machine
end

section
/-! The transmit queue through the start and power commands: with those, every command keeps its law (R104,
R114 to R118). -/

namespace Sys2Proof.Machine

theorem State.inCrystalWait_iff (s : State) :
    s.inCrystalWait = true ↔ s.node.mode = .start ∧ s.node.awaitingCrystal = true := by
  simp [State.inCrystalWait]

@[simp] theorem State.enter_inCrystalWait (s : State) (t : Time) :
    (s.enter t).inCrystalWait = s.inCrystalWait := by
  simp [State.inCrystalWait]

/-- With an empty queue the link keeps its law through the JOIN and the start of the blocks (R183). -/
theorem State.joinAndEnter_link_ok {s : State} (h : s.link.queue = []) : s.joinAndEnter.link.ok := by
  have hoffer : (s.offer s.joinNotice).link.ok := (State.offer_ok (Link.ok.empty h) _).1
  unfold State.joinAndEnter
  dsimp only
  split <;> simpa using hoffer

theorem State.crystalStarts_link_ok {s : State} (h : s.link.queue = []) : s.crystalStarts.link.ok := by
  unfold State.crystalStarts
  refine State.joinAndEnter_link_ok ?_
  split <;> exact h

theorem State.crystalFails_link_ok {s : State} (h : s.link.queue = []) : s.crystalFails.link.ok :=
  State.joinAndEnter_link_ok h

/-- A node that leaves START is in no state of which R104 speaks. -/
theorem Node.halts_not_start (n : Node) : (if n.halts then NodeMode.halted else .operating) ≠ .start := by
  split <;> decide

/-- The start sequence leaves the queue lawful, and a node that waits in START has no ACTIVE link. -/
theorem State.startSequence_linkOk (s : State) (cause : ResetCause) (inp : StartInputs) :
    (s.startSequence cause inp).linkOk := by
  obtain ⟨-, -, -, -, -, -, -, -, -, -, -, -, hmode, -, -, -, -, -, hlink⟩ :=
    State.afterStepFive_blocks s cause inp
  have hqueue : (s.afterStepFive cause inp).link.queue = [] := by rw [hlink]; rfl
  rw [State.startSequence_cases]
  split_ifs
  · exact ⟨Link.ok.empty rfl, by simp⟩
  · exact ⟨State.crystalStarts_link_ok hqueue, fun hm => absurd (by simpa using hm) (Node.halts_not_start _)⟩
  · refine ⟨Link.ok.empty hqueue, fun _ => ?_⟩
    rw [State.withNode_link, hlink]
    dsimp only
    split <;> decide

theorem State.warnHead_linkAt {L : LinkState} {s : State} (h : s.linkAt L) : s.warnHead.linkAt L :=
  State.linkAt_of_eq (State.abortPower_linkAt h) rfl

theorem State.takeWarning_linkAt {L : LinkState} {s : State} (h : s.linkAt L) : s.takeWarning.linkAt L := by
  unfold State.takeWarning
  cases s.node.mode
  case operating =>
    cases s.node.role
    · exact State.linkAt_of_eq (State.warnHead_linkAt h) rfl
    · exact h
  case start =>
    dsimp only
    split <;> exact h
  all_goals exact h

theorem State.takeAssertion_linkAt {L : LinkState} {s : State} (h : s.linkAt L) :
    s.takeAssertion.linkAt L := by
  unfold State.takeAssertion
  split
  · exact h
  · exact State.takeWarning_linkAt (State.linkAt_of_eq h rfl)

/-- The power warning puts no node in START. -/
theorem State.takeAssertion_mode (s : State) :
    s.takeAssertion.node.mode = s.node.mode ∨ s.takeAssertion.node.mode = .saved := by
  unfold State.takeAssertion State.takeWarning
  cases hm : s.node.mode <;> cases hr : s.node.role <;> dsimp only <;> (repeat' split) <;>
    simp_all [State.beginSave, State.saveNothing]

/-- Every command keeps the law of the transmit queue. -/
theorem exec_linkOk {c : Instr} {s u : State} (h : s.linkOk) (hu : exec c s = .next u) : u.linkOk := by
  have henter : ∀ t, (s.enter t).linkOk := fun t => by simpa [State.linkOk] using h
  have hempty : s.inCrystalWait = true → s.link.queue = [] := fun hw =>
    h.1.quiet (h.2 (s.inCrystalWait_iff.mp hw).1)
  cases hc : startsOrSaves c
  case false =>
    obtain ⟨hok, hstate⟩ := exec_linkAfter hc h.1 hu
    refine ⟨hok, fun hm => ?_⟩
    rw [(exec_sameNode hc hu).2.1] at hm
    rcases hstate with hs | hs
    · exact hs ▸ h.2 hm
    · simp [hs]
  case true =>
    cases c <;> simp only [startsOrSaves, Bool.false_eq_true] at hc <;> cases hu
    case powerOnReset => exact State.startSequence_linkOk _ _ _
    case resetLine => exact State.startSequence_linkOk _ _ _
    case crystalReady t =>
      split
      next hw =>
        exact ⟨State.crystalStarts_link_ok (by simpa using hempty (by simpa using hw)),
          fun hm => absurd (by simpa using hm) (Node.halts_not_start _)⟩
      · exact henter t
    case crystalWaitExpiry t =>
      split
      next hw =>
        simp only [Bool.and_eq_true] at hw
        exact ⟨State.crystalFails_link_ok (by simpa using hempty (by simpa using hw.1)),
          fun hm => absurd (by simpa using hm) (Node.halts_not_start _)⟩
      · exact henter t
    case powerWarningAsserted m =>
      refine State.afterSample_keeps _ (henter _) (fun x e hx => ?_) (fun x hx => ?_) (fun x p hx => ?_)
      · obtain ⟨hok, hst⟩ := State.unitTakes_linkAt ⟨hx.1, rfl⟩ e
        exact ⟨hok, fun hm => by rw [hst]; exact hx.2 (by simpa using hm)⟩
      · obtain ⟨hok, hst⟩ := State.takeAssertion_linkAt ⟨hx.1, rfl⟩
        refine ⟨hok, fun hm => ?_⟩
        rw [hst]
        rcases x.takeAssertion_mode with he | he
        · exact hx.2 (he ▸ hm)
        · simp [he] at hm
      · obtain ⟨hok, hst⟩ := State.takeReport_linkAt ⟨hx.1, rfl⟩ p
        exact ⟨hok, fun hm => by rw [hst]; exact hx.2 (by simpa using hm)⟩
    case saveComplete t start =>
      split
      · dsimp only
        split
        · exact henter t
        · exact State.startSequence_linkOk _ _ _
      · exact henter t
    case powerWarningNegated t start =>
      split
      · dsimp only
        split
        · exact State.startSequence_linkOk _ _ _
        · exact henter t
      · exact henter t

/-- Settles O57: a node in START has an empty queue, and every other command offers, sends or drops notices
by the rules of the queue. -/
theorem transmitQueueKept : Obligations.TransmitQueueKept :=
  fun _ _ => step_keeps (fun _ _ h => h) fun _ _ _ => exec_linkOk

end Sys2Proof.Machine
end

section
/-! The law of the valve and of the dose over whole commands (R31, R45, R53 to R59, R63, R65, R67). -/

namespace Sys2Proof.Machine

/-! ### What a received frame leaves to the steam unit -/

theorem State.enterMute_valveOk {s : State} (h : s.valveOk) : s.enterMute.valveOk :=
  State.valveOk_of_eq h (by simp) (by simp) (by simp)

theorem State.hearPeer_valveOk {s : State} (h : s.valveOk) (a : Address) (st : RosterState) :
    (s.hearPeer a st).valveOk := by
  unfold State.hearPeer
  split
  · exact State.setRoster_valveOk h _ _
  · exact h

theorem State.hearJoin_valveOk {s : State} (h : s.valveOk) (a : Address) : (s.hearJoin a).valveOk := by
  unfold State.hearJoin
  split
  · dsimp only
    split
    · exact State.forgetAwaited_valveOk (State.setRoster_valveOk h _ _)
    · exact State.setRoster_valveOk h _ _
  · split
    · exact State.valveOk_of_eq h (by simp) (by simp) (by simp)
    · exact h

/-- A frame keeps the law when its delivery does. -/
theorem State.receive_valveOk {s : State} (h : s.valveOk) (a : Address) {f : State → State}
    (hf : ∀ x : State, x.valveOk → (f x).valveOk) : (s.receive a f).valveOk :=
  State.receive_keeps s a f State.valveOk h hf fun _ => State.enterMute_valveOk

theorem State.takeCommand_valveOk {s : State} (h : s.valveOk) (a : Address) (mask : BitVec 32)
    (op arg : Byte) : (s.takeCommand a mask op arg).valveOk :=
  State.receive_valveOk h a fun _ hx => State.valveOk_of_eq hx (by simp) (by simp) (by simp)

/-- Every command but the start and power commands keeps the law. -/
theorem exec_valveOk {c : Instr} {s u : State} (hc : startsOrSaves c = false) (h : s.valveOk)
    (hu : exec c s = .next u) : u.valveOk := by
  have henter : ∀ t, (s.enter t).valveOk := fun t => State.valveOk_of_eq h (by simp) (by simp) (by simp)
  have hrest {x : State} (hs : x.steam = s.steam) (hq : x.seq.cycle = s.seq.cycle)
      (hh : x.config.header = s.config.header) : x.valveOk := State.valveOk_of_eq h hs hq hh
  cases c <;> simp only [startsOrSaves, Bool.true_eq_false] at hc <;> cases hu
  case turretPulse => exact State.afterSample_valveOk (henter _) _ _ fun x hx => State.takePulse_valveOk hx _ _ _
  case pitchLossDeadline => exact State.afterSample_valveOk (henter _) _ _ fun x => State.takeLossDeadline_valveOk
  case phaseBoundary => exact State.afterSample_valveOk (henter _) _ _ fun x hx => State.takePhase_valveOk hx _
  case runLineFall => exact State.afterSample_valveOk (henter _) _ _ fun x => State.takeRunFall_valveOk
  case valveFeedbackChange t shown =>
    dsimp only
    split
    · exact henter t
    · split
      · exact State.feedbackChanged_valveOk (State.valveOk_of_eq (henter t) rfl rfl rfl)
      · exact State.valveOk_of_eq (henter t) rfl rfl rfl
  case settleTimerExpiry t =>
    split
    · exact State.settleExpired_valveOk (henter t)
    · exact henter t
  case doseTick t =>
    split
    · split
      next hticks =>
        split
        · exact State.takeTick_valveOk (henter t) (by rw [hticks]; exact Option.some_ne_none _)
        · exact henter t
      · exact henter t
    · exact henter t
  case rosterExpiry t p =>
    split
    · exact State.countHead_valveOk (State.setRoster_valveOk (henter t) _ _) _
    · exact henter t
  case driveSample t d => exact State.takeSample_valveOk (henter t) _
  case sampleDeadline t => exact State.takeSample_valveOk (henter t) _
  case steamOpenReceived t a => exact State.receive_valveOk (henter t) a fun x hx => State.hearPeer_valveOk hx _ _
  case steamShutReceived t a => exact State.receive_valveOk (henter t) a fun x hx => State.hearPeer_valveOk hx _ _
  case valveFaultReceived t a f =>
    refine State.receive_valveOk (henter t) a fun x hx => ?_
    split
    · exact State.hearPeer_valveOk hx _ _
    · exact hx
  case joinReceived t a p => exact State.receive_valveOk (henter t) a fun x hx => State.hearJoin_valveOk hx a
  case verdictReceived t a p =>
    refine State.receive_valveOk (henter t) a fun x hx => ?_
    split
    · exact State.valveOk_of_eq hx (by simp) (by simp) (by simp)
    · exact hx
  case sealReceived t a p =>
    refine State.receive_valveOk (henter t) a fun x hx => ?_
    split
    · exact State.valveOk_of_eq hx (by simp) (by simp) (by simp)
    · exact hx
  case voidReceived t a p =>
    refine State.receive_valveOk (henter t) a fun x hx => ?_
    split
    · exact State.valveOk_of_eq hx (by simp) (by simp) (by simp)
    · exact hx
  case selectBank t a k g => exact State.takeCommand_valveOk (henter t) _ _ _ _
  case lock t a k g => exact State.takeCommand_valveOk (henter t) _ _ _ _
  case restore t a k g => exact State.takeCommand_valveOk (henter t) _ _ _ _
  case trimReset t a k g => exact State.takeCommand_valveOk (henter t) _ _ _ _
  case clearCounts t a k g => exact State.takeCommand_valveOk (henter t) _ _ _ _
  case report t a k g => exact State.takeCommand_valveOk (henter t) _ _ _ _
  case releaseStop t a k g => exact State.takeCommand_valveOk (henter t) _ _ _ _
  case commandOpUnknown t a k o g => exact State.takeCommand_valveOk (henter t) _ _ _ _
  all_goals
    (repeat' split) <;> exact hrest (by simp) (by simp) (by simp)

/-! ### A head that takes no events -/

theorem State.unitTakes_idle {s : State} (h : s.headRuns = false) (e : SampleEvent) :
    s.unitTakes e = (s, .nothing) := by
  simp [State.unitTakes, h]

/-- The steam unit stands as in `s`, and of the closing unit only the view of the drive line has been
emptied (log 11). -/
def State.unitsRest (s u : State) : Prop :=
  u.steam = s.steam ∧ u.closing = { s.closing with sent := [] }

/-- The report of an event that concerns no closing leaves both units. -/
theorem State.takeReport_nothing_rests {s u : State} (h : s.unitsRest u) :
    s.unitsRest (u.takeReport .nothing) := by
  unfold State.takeReport
  split <;> exact h

/-- A command whose effect leaves the units of an idle head leaves them with a sample ahead, too. -/
theorem State.afterSample_rests {s x : State} (h : x.headRuns = false) (ahead : Option SampleEvent)
    {f : State → State} (hf : s.unitsRest (f x)) : s.unitsRest (x.afterSample ahead f) := by
  cases ahead with
  | none => exact hf
  | some e =>
    simp only [State.afterSample, State.unitTakes_idle h]
    exact State.takeReport_nothing_rests hf

/-- A head that takes no events leaves its steam and closing units as they are, but at the start and power
commands. -/
theorem exec_idle_rests {c : Instr} {s u : State} (hc : startsOrSaves c = false) (h : s.headRuns = false)
    (hu : exec c s = .next u) : s.unitsRest u := by
  have hrun : ∀ t, (s.enter t).headRuns = false := fun t => by simpa using h
  have henter : ∀ t, s.unitsRest (s.enter t) := fun t => ⟨by simp, by simp⟩
  have hpins : ∀ (x : State) p, (x.withPins p).headRuns = x.headRuns := fun _ _ => rfl
  have heq {x y : State} (hx : s.unitsRest x) (h1 : y.steam = x.steam) (h2 : y.closing = x.closing) :
      s.unitsRest y := ⟨h1.trans hx.1, h2.trans hx.2⟩
  have hsample : ∀ t e, s.unitsRest ((s.enter t).takeSample e) := fun t e => by
    simp only [State.takeSample, State.unitTakes_idle (hrun t)]
    exact State.takeReport_nothing_rests (henter t)
  have hframe {t : Time} (a : Address) {f : State → State}
      (hf : ∀ x : State, x.headRuns = false → (f x).node = x.node ∧ (f x).steam = x.steam ∧
        (f x).closing = x.closing) : s.unitsRest ((s.enter t).receive a f) :=
    (State.receive_keeps _ a f (fun x => x.headRuns = false ∧ s.unitsRest x) ⟨hrun t, henter t⟩
      (fun x ⟨hx, hr⟩ => by
        obtain ⟨hn, hs, hcl⟩ := hf x hx
        exact ⟨by simpa [State.headRuns, hn] using hx, heq hr hs hcl⟩)
      (fun x ⟨hx, hr⟩ => ⟨by simpa [State.headRuns] using hx, heq hr (by simp) (by simp)⟩)).2
  have hcommand : ∀ t a mask op arg, s.unitsRest ((s.enter t).takeCommand a mask op arg) :=
    fun t a mask op arg => hframe a fun x hx => by simp
  cases c <;> simp only [startsOrSaves, Bool.true_eq_false] at hc <;> cases hu
  case turretPulse m jar cap =>
    exact State.afterSample_rests (hrun _) _
      (heq (henter m.time) (by simp [State.takePulse, hpins, h]) (by simp [State.takePulse, hpins, h]))
  case pitchLossDeadline m =>
    exact State.afterSample_rests (hrun _) _ (by simpa [State.takeLossDeadline, h] using henter _)
  case phaseBoundary m cap =>
    exact State.afterSample_rests (hrun _) _
      (heq (henter m.time) (by simp [State.takePhase, hpins, h]) (by simp [State.takePhase, hpins, h]))
  case runLineFall m =>
    exact State.afterSample_rests (hrun _) _
      (heq (henter m.time) (by simp [State.takeRunFall, hpins, h]) (by simp [State.takeRunFall, hpins, h]))
  case driveSample t d => exact hsample t _
  case sampleDeadline t => exact hsample t _
  case selectBank => exact hcommand _ _ _ _ _
  case lock => exact hcommand _ _ _ _ _
  case restore => exact hcommand _ _ _ _ _
  case trimReset => exact hcommand _ _ _ _ _
  case clearCounts => exact hcommand _ _ _ _ _
  case report => exact hcommand _ _ _ _ _
  case releaseStop => exact hcommand _ _ _ _ _
  case commandOpUnknown => exact hcommand _ _ _ _ _
  case steamOpenReceived t a => exact hframe a fun x hx => by simp [State.hearPeer, hx]
  case steamShutReceived t a => exact hframe a fun x hx => by simp [State.hearPeer, hx]
  case valveFaultReceived t a f =>
    refine hframe a fun x hx => ?_
    split <;> simp [State.hearPeer, hx]
  case joinReceived t a p =>
    refine hframe a fun x hx => ?_
    simp only [State.hearJoin, hx, Bool.false_eq_true, if_false]
    split <;> simp
  case verdictReceived t a p => exact hframe a fun x hx => by simp [State.takesVerdict, hx]
  case sealReceived t a p =>
    refine hframe a fun x hx => ?_
    split <;> simp
  case voidReceived t a p =>
    refine hframe a fun x hx => ?_
    split <;> simp
  case runLineRise t => exact heq (henter t) (by simp [hpins, h]) (by simp [hpins, h])
  case temperatureReading t r => simpa [h] using henter t
  case valveFeedbackChange t shown =>
    simp only [hpins, hrun, Bool.false_eq_true, if_false]
    split <;> exact henter t
  case settleTimerExpiry t => simpa [h] using henter t
  case doseTick t => simpa [h] using henter t
  case rosterExpiry t p => simpa [h] using henter t
  all_goals
    (repeat' split) <;> exact ⟨by simp, by simp⟩

end Sys2Proof.Machine
end

section
/-! The law of the valve and of the dose through the start sequence and the power warning, and so over every
step (R45, R67). -/

namespace Sys2Proof.Machine

/-! ### The start sequence -/

/-- The law says nothing of the roster or of the settle timer. -/
theorem Steam.ok.restart {st : Steam} {cycle : CycleState} {qn : Nat} (h : st.ok cycle qn)
    (roster : List RosterEntry) (settle : Option Time) :
    ({ st with roster := roster, settle := settle } : Steam).ok cycle qn :=
  ⟨h.commanded, h.flushing, h.cycling, h.attachment, h.uncounted, h.ticking, h.below, h.bounded⟩

/-- A valve commanded shut breaks no part of the law. -/
theorem Steam.ok.commandShut {st : Steam} {cycle : CycleState} {qn : Nat} (h : st.ok cycle qn) :
    ({ st with commandOpen := false } : Steam).ok cycle qn :=
  ⟨nofun, h.flushing, h.cycling, h.attachment, h.uncounted, h.ticking, h.below, h.bounded⟩

theorem Steam.reset_ok (cycle : CycleState) (qn : Nat) : Steam.reset.ok cycle qn where
  commanded := nofun
  flushing := by rintro (h | h) <;> cases h
  cycling := nofun
  attachment := nofun
  uncounted := nofun
  ticking h := absurd rfl h
  below h := absurd rfl h
  bounded := nofun

/-- The start of the blocks fills the roster and looks at the settle timer, on a head alone (R45). -/
theorem State.joinAndEnter_steam (s : State) :
    ∃ roster settle, s.joinAndEnter.steam = { s.steam with roster := roster, settle := settle } := by
  unfold State.joinAndEnter
  dsimp only
  split
  · exact ⟨s.steam.roster, s.steam.settle, by simp⟩
  · unfold State.startBlocks
    split
    · exact ⟨_, _, by
        simp [State.startVerdicts, State.startClosing, State.startSteam]; exact ⟨rfl, rfl⟩⟩
    · exact ⟨s.steam.roster, s.steam.settle, by simp [State.startTransit]⟩

theorem State.joinAndEnter_steamOk {s : State} (h : s.valveOk) (hc : s.steam.commandOpen = false) :
    s.joinAndEnter.steamOk := by
  obtain ⟨roster, settle, hs⟩ := s.joinAndEnter_steam
  refine ⟨?_, fun _ => by rw [hs]; exact hc⟩
  rw [hs]
  simpa using h.restart roster settle

theorem State.crystalStarts_steamOk {s : State} (h : s.valveOk) (hc : s.steam.commandOpen = false) :
    s.crystalStarts.steamOk := by
  unfold State.crystalStarts
  dsimp only
  split <;> exact State.joinAndEnter_steamOk h hc

theorem State.crystalFails_steamOk {s : State} (h : s.valveOk) (hc : s.steam.commandOpen = false) :
    s.crystalFails.steamOk :=
  State.joinAndEnter_steamOk h hc

/-- The start sequence leaves the steam unit lawful, with its valve commanded shut. -/
theorem State.startSequence_steamOk (s : State) (cause : ResetCause) (inp : StartInputs) :
    (s.startSequence cause inp).steamOk := by
  have hreset {x : State} (hx : x.steam = Steam.reset) : x.valveOk ∧ x.steam.commandOpen = false := by
    rw [State.valveOk, hx]
    exact ⟨Steam.reset_ok _ _, rfl⟩
  obtain ⟨-, -, -, -, -, hsteam, -⟩ := State.afterStepFive_blocks s cause inp
  obtain ⟨hok, hshut⟩ := hreset hsteam
  rw [State.startSequence_cases]
  split_ifs
  · exact ⟨Steam.reset_ok _ _, fun _ => rfl⟩
  · exact State.crystalStarts_steamOk hok hshut
  · exact ⟨hok, fun _ => hshut⟩

/-! ### The power warning -/

theorem State.headRuns_of_start {s : State} (h : s.node.mode = .start) : s.headRuns = false := by
  simp [State.headRuns, h]

theorem State.takeWarning_steamOk {s : State} (h : s.steamOk) : s.takeWarning.steamOk := by
  have hidle (hr : s.headRuns = false) {x : State} (hs : x.steam = s.steam) (hq : x.seq = s.seq)
      (hc : x.config = s.config) : x.steamOk := by
    rw [State.steamOk, hs, hq, hc]
    exact ⟨h.1, fun _ => h.2 hr⟩
  unfold State.takeWarning
  cases hm : s.node.mode
  case operating =>
    cases hrole : s.node.role
    case head => exact ⟨(State.abortPower_valveOk h.1).commandShut, fun _ => rfl⟩
    case check => exact hidle (by simp [State.headRuns, hrole]) rfl rfl rfl
  case start =>
    dsimp only
    split <;> exact hidle (by simp [State.headRuns, hm]) rfl rfl rfl
  case halted => exact hidle (by simp [State.headRuns, hm]) rfl rfl rfl
  case saved => exact h

theorem State.takeAssertion_steamOk {s : State} (h : s.steamOk) : s.takeAssertion.steamOk := by
  unfold State.takeAssertion
  split
  · exact h
  · exact State.takeWarning_steamOk h

/-- A report never opens the valve. -/
theorem State.takeReport_shut {s : State} (h : s.steam.commandOpen = false) (p : ClosingReport) :
    (s.takeReport p).steam.commandOpen = false := by
  unfold State.takeReport
  split
  · dsimp only
    split
    · exact h
    · exact h
    · simp only [State.endCycle_frame]
      obtain ⟨-, hs⟩ | ⟨-, -, hshut, -⟩ := State.shutRequest_steam (s.onRecord fun r => r.report p) .abort
      · rw [hs]; exact h
      · exact hshut
  · exact h

/-! ### Every command -/

theorem exec_steamOk {c : Instr} {s u : State} (h : s.steamOk) (hu : exec c s = .next u) : u.steamOk := by
  have henter : ∀ t, (s.enter t).steamOk := fun t => by simpa [State.steamOk] using h
  cases hc : startsOrSaves c
  case false =>
    refine ⟨exec_valveOk hc h.1 hu, fun hr => ?_⟩
    have hs : s.headRuns = false := by
      obtain ⟨-, hnode, -⟩ := exec_sameNode hc hu
      simpa [State.headRuns, hnode] using hr
    rw [(exec_idle_rests hc hs hu).1]
    exact h.2 hs
  case true =>
    cases c <;> simp only [startsOrSaves, Bool.false_eq_true] at hc <;> cases hu
    case powerOnReset => exact State.startSequence_steamOk _ _ _
    case resetLine => exact State.startSequence_steamOk _ _ _
    case crystalReady t =>
      split
      next hw =>
        have hm := ((State.inCrystalWait_iff _).mp hw).1
        exact State.crystalStarts_steamOk (henter t).1 ((henter t).2 (State.headRuns_of_start hm))
      · exact henter t
    case crystalWaitExpiry t =>
      split
      next hw =>
        have hm := ((State.inCrystalWait_iff _).mp (Bool.and_eq_true_iff.mp hw).1).1
        exact State.crystalFails_steamOk (henter t).1 ((henter t).2 (State.headRuns_of_start hm))
      · exact henter t
    case powerWarningAsserted m =>
      refine State.afterSample_keeps _ (henter _) (fun x e hx => ?_) (fun x => State.takeAssertion_steamOk)
        (fun x p hx => ?_)
      · refine ⟨State.unitTakes_valveOk hx.1 e, fun hr => ?_⟩
        have hr : x.headRuns = false := by simpa [State.headRuns] using hr
        rw [State.unitTakes_idle hr]
        exact hx.2 hr
      · exact ⟨State.takeReport_valveOk hx.1 p,
          fun hr => State.takeReport_shut (hx.2 (by simpa [State.headRuns] using hr)) p⟩
    case saveComplete t start =>
      split
      · dsimp only
        split
        · exact henter t
        · exact State.startSequence_steamOk _ _ _
      · exact henter t
    case powerWarningNegated t start =>
      split
      · dsimp only
        split
        · exact State.startSequence_steamOk _ _ _
        · exact henter t
      · exact henter t

/-- Settles O58: a head that takes no events moves its steam unit only by a start or the power warning, and
neither opens the valve. -/
theorem valveLawKept : Obligations.ValveLawKept :=
  fun _ _ => step_keeps (fun _ _ h => h) fun _ _ _ => exec_steamOk

end Sys2Proof.Machine
end

section
/-! The drive command, the pitch estimate, the verdict list and the check station's sizes over every command
but the start and power commands (R7, R72, R122, R123, R129, R144, R163, R165, R166). -/

namespace Sys2Proof.Machine

/-! ### The drive command (R72) -/

theorem State.takePulse_driveOk {s : State} (h : s.driveOk) (t : Time) (jar cap : Bool) :
    (s.takePulse t jar cap).driveOk := by
  unfold State.takePulse
  dsimp only
  split
  · split
    · exact State.indexMark_driveOk h
    · exact h
    · refine State.countedPulse_driveOk ?_ t
      exact h
  · exact h

theorem State.takeLossDeadline_driveOk {s : State} (h : s.driveOk) : s.takeLossDeadline.driveOk := by
  unfold State.takeLossDeadline
  (repeat' split) <;> first | exact h | exact State.pitchLoss_driveOk h

theorem State.takePhase_driveOk {s : State} (h : s.driveOk) (cap : Bool) : (s.takePhase cap).driveOk := by
  unfold State.takePhase
  dsimp only
  split
  · exact State.phaseMoves_driveOk h
  · exact h

theorem State.takeRunFall_driveOk {s : State} (h : s.driveOk) : s.takeRunFall.driveOk := by
  unfold State.takeRunFall
  dsimp only
  split
  · exact State.abortWorking_driveOk (State.driveOk_of_eq h (by simp)) _
  · exact h

/-- The command in force stays the one of the closing state. -/
theorem exec_driveOk {c : Instr} {s u : State} (hc : startsOrSaves c = false) (h : s.driveOk)
    (hu : exec c s = .next u) : u.driveOk := by
  have henter : ∀ t, (s.enter t).driveOk := fun t =>
    Closing.commandOk_of_eq h (by simp) (by simp) (by simp)
  have hsample : ∀ t e, ((s.enter t).takeSample e).driveOk := fun t e =>
    State.takeReport_driveOk (State.unitTakes_driveOk (henter t) e) _
  have hrest {t : Time} {x : State} (hx : x.closing = (s.enter t).closing) : x.driveOk :=
    State.driveOk_of_eq (henter t) hx
  cases c <;> simp only [startsOrSaves, Bool.true_eq_false] at hc <;> cases hu
  case turretPulse => exact State.afterSample_driveOk (henter _) _ _ fun x hx => State.takePulse_driveOk hx _ _ _
  case pitchLossDeadline => exact State.afterSample_driveOk (henter _) _ _ fun x => State.takeLossDeadline_driveOk
  case phaseBoundary => exact State.afterSample_driveOk (henter _) _ _ fun x hx => State.takePhase_driveOk hx _
  case runLineFall => exact State.afterSample_driveOk (henter _) _ _ fun x => State.takeRunFall_driveOk
  case driveSample t d => exact hsample t _
  case sampleDeadline t => exact hsample t _
  all_goals
    try simp only [State.takeCommand, State.receive]
    (repeat' split) <;> exact hrest (t := by assumption) (by simp)

end Sys2Proof.Machine
end

section
/-! The pitch estimate, the verdict list and the check station's sizes over every command but the start and
power commands (R7, R122, R123, R129, R144, R163, R165, R166). -/

namespace Sys2Proof.Machine

/-! ### The pitch estimate (R7, R8, R10) -/

/-- A part of a way, truncated toward zero, lies on that way. -/
theorem tdiv_between (x : Int) {n : Int} (hn : 0 < n) :
    (0 ≤ x → 0 ≤ x.tdiv n ∧ x.tdiv n ≤ x) ∧ (x ≤ 0 → x ≤ x.tdiv n ∧ x.tdiv n ≤ 0) := by
  have hpos : ∀ y : Int, 0 ≤ y → 0 ≤ y.tdiv n ∧ y.tdiv n ≤ y := fun y hy =>
    ⟨Int.tdiv_nonneg hy hn.le, by rw [Int.tdiv_eq_ediv_of_nonneg hy]; exact Int.ediv_le_self _ hy⟩
  refine ⟨hpos x, fun hx => ?_⟩
  have h := hpos (-x) (by omega)
  rw [Int.neg_tdiv] at h
  omega

theorem periodValid_iff (m : Int) : periodValid m = true ↔ 50000 ≤ m ∧ m ≤ 4000000 := by
  simp [periodValid]

/-- An estimate moved a part of the way to a valid period stays in the range of R7. -/
theorem movePitch_range {e : Nat} {m n : Int} (he : 50000 ≤ e ∧ e ≤ 4000000) (hm : periodValid m = true)
    (hn : 0 < n) : 50000 ≤ movePitch e m n ∧ movePitch e m n ≤ 4000000 := by
  have hv := (periodValid_iff m).mp hm
  have hway := tdiv_between (m - e) hn
  unfold movePitch
  rcases Int.le_total (e : Int) m with h | h
  · have := hway.1 (by omega); omega
  · have := hway.2 (by omega); omega

theorem Tracker.pitchOk_of_eq {tr tr' : Tracker} (h : tr.pitchOk) (hp : tr'.pitch = tr.pitch) :
    tr'.pitchOk := by
  unfold Tracker.pitchOk
  rwa [hp]

theorem Tracker.pitchOk_some {tr : Tracker} {e : Nat} (h : 50000 ≤ e ∧ e ≤ 4000000)
    (hp : tr.pitch = some e) : tr.pitchOk := by
  intro x hx
  rw [hp] at hx
  exact Option.some.inj hx ▸ h

theorem Tracker.acquireUpdate_pitchOk {tr : Tracker} (h : tr.pitchOk) (m : Int) :
    (tr.acquireUpdate m).pitchOk := by
  unfold Tracker.acquireUpdate
  split
  · split
    next hm =>
      have hv := (periodValid_iff m).mp hm
      exact Tracker.pitchOk_some (by omega) rfl
    · exact h
  next e he =>
    split
    next hm =>
      have hr := movePitch_range (h e he) hm (n := 4) (by decide)
      (repeat' split) <;> exact Tracker.pitchOk_some hr rfl
    · exact Tracker.pitchOk_of_eq h rfl

/-- A pitch loss forgets the lock, not the estimate (R12). -/
theorem State.pitchLoss_pitch (s : State) : s.pitchLoss.tracker.pitch = s.tracker.pitch := by
  simp [State.pitchLoss, Tracker.lose]

/-- Without an estimate no period is in window. -/
theorem periodInWindow_zero (m : Int) : periodInWindow 0 m = false := by
  rw [Bool.eq_false_iff]
  intro h
  simp only [periodInWindow, Bool.and_eq_true, decide_eq_true_eq, periodValid_iff] at h
  omega

theorem State.lockedUpdate_pitchOk {s : State} (h : s.tracker.pitchOk) (m : Int) :
    (s.lockedUpdate m).tracker.pitchOk := by
  unfold State.lockedUpdate
  dsimp only
  split
  next hm =>
    cases he : s.tracker.pitch with
    | none => simp [he, periodInWindow_zero] at hm
    | some e =>
      simp only [he, Option.getD_some, periodInWindow, Bool.and_eq_true] at hm
      exact Tracker.pitchOk_some (movePitch_range (h e he) hm.1 (by decide)) rfl
  · split
    · exact Tracker.pitchOk_of_eq h s.pitchLoss_pitch
    · exact Tracker.pitchOk_of_eq h rfl

theorem State.measure_pitchOk {s : State} (h : s.tracker.pitchOk) (t : Time) :
    (s.measure t).tracker.pitchOk := by
  have hperiod : ∀ m, (s.takePeriod m).tracker.pitchOk := fun m => by
    unfold State.takePeriod
    split
    · exact h
    · exact Tracker.acquireUpdate_pitchOk h m
    · exact State.lockedUpdate_pitchOk h m
  unfold State.measure
  split
  · exact h
  · split
    · exact Tracker.pitchOk_of_eq h rfl
    · exact Tracker.pitchOk_of_eq (hperiod _) rfl

theorem State.countedPulse_pitchOk {s : State} (h : s.tracker.pitchOk) (t : Time) :
    (s.countedPulse t).tracker.pitchOk := by
  unfold State.countedPulse
  dsimp only
  simp only [State.handBoundaries_frame]
  refine Tracker.pitchOk_of_eq (State.measure_pitchOk (s := s.withTracker _) ?_ t) rfl
  exact Tracker.pitchOk_of_eq h rfl

theorem State.indexMark_pitch (s : State) : s.indexMark.tracker.pitch = s.tracker.pitch := by
  unfold State.indexMark
  dsimp only
  (repeat' split) <;> simp

theorem State.phaseMoves_pitch (s : State) : s.phaseMoves.tracker.pitch = s.tracker.pitch := by
  simp [State.phaseMoves]

theorem Tracker.stop_pitch (tr : Tracker) : tr.stop.pitch = tr.pitch := by
  unfold Tracker.stop
  split <;> rfl

theorem Tracker.rise_pitch (tr : Tracker) : tr.rise.pitch = tr.pitch := by
  unfold Tracker.rise
  split <;> rfl

theorem State.takePulse_pitchOk {s : State} (h : s.tracker.pitchOk) (t : Time) (jar cap : Bool) :
    (s.takePulse t jar cap).tracker.pitchOk := by
  unfold State.takePulse
  dsimp only
  split
  · split
    · exact Tracker.pitchOk_of_eq h (State.indexMark_pitch _)
    · exact h
    · refine State.countedPulse_pitchOk ?_ t
      exact h
  · exact h

theorem State.takeLossDeadline_pitch (s : State) : s.takeLossDeadline.tracker.pitch = s.tracker.pitch := by
  unfold State.takeLossDeadline
  (repeat' split) <;> simp [State.pitchLoss_pitch]

theorem State.takePhase_pitch (s : State) (cap : Bool) :
    (s.takePhase cap).tracker.pitch = s.tracker.pitch := by
  unfold State.takePhase
  dsimp only
  split <;> simp [State.phaseMoves_pitch]

theorem State.takeRunFall_pitch (s : State) : s.takeRunFall.tracker.pitch = s.tracker.pitch := by
  unfold State.takeRunFall
  dsimp only
  split <;> simp [Tracker.stop_pitch]

/-- The pitch estimate stays in its range. -/
theorem exec_pitchOk {c : Instr} {s u : State} (hc : startsOrSaves c = false) (h : s.tracker.pitchOk)
    (hu : exec c s = .next u) : u.tracker.pitchOk := by
  have henter : ∀ t, (s.enter t).tracker.pitchOk := fun t => Tracker.pitchOk_of_eq h (by simp)
  have hahead (m : Moment) {f : State → State} (hf : ∀ x : State, x.tracker.pitchOk → (f x).tracker.pitchOk) :
      ((s.enter m.time).afterSample m.ahead f).tracker.pitchOk :=
    State.afterSample_keeps (P := fun x => x.tracker.pitchOk) _ (henter _) (fun x e hx => by simpa using hx)
      hf (fun x p hx => by simpa using hx)
  have hrest {x : State} (hx : x.tracker.pitch = s.tracker.pitch) : x.tracker.pitchOk :=
    Tracker.pitchOk_of_eq h hx
  cases c <;> simp only [startsOrSaves, Bool.true_eq_false] at hc <;> cases hu
  case turretPulse m jar cap => exact hahead m fun x hx => State.takePulse_pitchOk hx _ _ _
  case pitchLossDeadline m => exact hahead m fun x hx => Tracker.pitchOk_of_eq hx x.takeLossDeadline_pitch
  case phaseBoundary m cap => exact hahead m fun x hx => Tracker.pitchOk_of_eq hx (x.takePhase_pitch cap)
  case runLineFall m => exact hahead m fun x hx => Tracker.pitchOk_of_eq hx x.takeRunFall_pitch
  case runLineRise t => split <;> exact hrest (by simp [Tracker.rise_pitch])
  all_goals
    try simp only [State.takeCommand, State.receive]
    (repeat' split) <;> exact hrest (by simp)

/-! ### The verdict list (R122, R123, R129) -/

/-- The verdict list's part of the laws. -/
def State.listOk (s : State) : Prop := s.verdicts.ok ∧ s.trimsOk

/-- A change that keeps the awaited seals lawful, the trims and the good-run counts keeps the law, if the node
and the banks stay. -/
theorem State.listOk_of_keeps {s u : State} (h : s.listOk) (hk : State.keepsTrims s u)
    (hn : u.node = s.node) (hb : u.config.banks = s.config.banks) : u.listOk := by
  obtain ⟨hok, hruns, htrims⟩ := h
  obtain ⟨hawaited, htrim, hrun⟩ := hk
  refine ⟨hawaited hok, ?_, ?_⟩
  · rwa [hrun]
  · unfold State.headRuns State.bankOf at *
    rwa [hn, hb, htrim]

theorem State.listOk_of_eq {s u : State} (h : s.listOk) (hv : u.verdicts = s.verdicts)
    (hn : u.node = s.node) (hb : u.config.banks = s.config.banks) : u.listOk :=
  State.listOk_of_keeps h (State.keepsTrims_of hv) hn hb

theorem State.enterMute_listOk {s : State} (h : s.listOk) : s.enterMute.listOk :=
  State.listOk_of_eq h (by simp) (by simp) (by simp)

theorem State.receive_listOk {s : State} (h : s.listOk) (a : Address) {f : State → State}
    (hf : ∀ x : State, x.listOk → (f x).listOk) : (s.receive a f).listOk :=
  State.receive_keeps s a f State.listOk h hf fun _ => State.enterMute_listOk

theorem State.forgetAwaited_listOk {s : State} (h : s.listOk) : s.forgetAwaited.listOk :=
  State.listOk_of_keeps h
    ⟨fun _ => by simp [State.forgetAwaited, State.countUnanswered, VerdictList.ok],
      by simp [State.forgetAwaited, State.countUnanswered],
      by simp [State.forgetAwaited, State.countUnanswered]⟩ (by simp) (by simp)

theorem State.hearJoin_listOk {s : State} (h : s.listOk) (a : Address) : (s.hearJoin a).listOk := by
  have hroster := State.listOk_of_eq h (u := s.setRoster a.toNat .closed) (by simp) (by simp) (by simp)
  unfold State.hearJoin
  split
  · dsimp only
    split
    · exact State.forgetAwaited_listOk hroster
    · exact hroster
  · split
    · exact State.listOk_of_eq h (by simp) (by simp) (by simp)
    · exact h

/-- A VERDICT leaves a part of the awaited seals, and an answer keeps the trims in their range (R125, R128,
R129). -/
theorem State.matchVerdict_listOk {s : State} (h : s.listOk) (hr : s.headRuns = true)
    (p : VerdictPayload) : (s.matchVerdict p).listOk := by
  obtain ⟨hok, hruns, htrims⟩ := h
  unfold State.matchVerdict
  split
  next older e newer hsplit =>
    have hnewer : ({ s.verdicts with awaited := newer } : VerdictList).ok :=
      have hsub := splitAtRevolution_sublist _ _ _ _ _ hsplit
      ⟨hsub.length_le.trans hok.1, hok.2.sublist (hsub.map _)⟩
    obtain ⟨hawaited, hbanks, hrun, htrim⟩ := State.takeAnswer_keeps
      ((s.withVerdicts { s.verdicts with awaited := newer }).countUnanswered older.length) e p
      ⟨by simpa [State.countUnanswered] using hruns,
        by simpa [State.countUnanswered, State.bankOf] using htrims hr⟩
    refine ⟨VerdictList.ok_of_awaited hnewer ?_, hrun, fun _ => htrim⟩
    rw [hawaited]
    simp [State.countUnanswered]
  · exact ⟨hok, hruns, htrims⟩

/-- Reset trims and counts are 0 (R132). -/
theorem State.resetTrims_listOk {s : State} (h : s.listOk) : s.resetTrims.listOk := by
  obtain ⟨hawaited, htrims, hruns⟩ := s.resetTrims_gives
  refine ⟨VerdictList.ok_of_awaited h.1 hawaited, fun b => ?_, fun _ b => ?_⟩
  · rw [hruns, PerBank.get_all_zero]; decide
  · rw [htrims, PerBank.get_all_zero]; exact Nat.zero_le _

theorem State.carryOut_listOk {s : State} (h : s.listOk) (op arg : Byte) : (s.carryOut op arg).listOk := by
  have hrest {x : State} (hv : x.verdicts = s.verdicts) (hn : x.node = s.node)
      (hb : x.config.banks = s.config.banks) : x.listOk := State.listOk_of_eq h hv hn hb
  unfold State.carryOut
  split
  case h_4 =>
    unfold State.opTrimReset
    split
    · exact State.resetTrims_listOk h
    · exact h
  all_goals exact hrest (by simp) (by simp) (by simp)

theorem State.testCommand_listOk {s : State} (h : s.listOk) (a : Address) (mask : BitVec 32)
    (op arg : Byte) : (s.testCommand a mask op arg).listOk := by
  unfold State.testCommand State.testOp
  (repeat' split) <;> first | exact h | exact State.carryOut_listOk h _ _

theorem State.takePulse_trims (s : State) (t : Time) (jar cap : Bool) :
    State.keepsTrims s (s.takePulse t jar cap) := by
  unfold State.takePulse
  dsimp only
  split
  · split
    · exact State.keepsTrims_of (by simp)
    · exact State.keepsTrims_of (by simp)
    · refine State.keepsTrims_trans (State.keepsTrims_of ?_) (State.countedPulse_trims _ t)
      rfl
  · exact State.keepsTrims_of rfl

theorem State.takePhase_trims (s : State) (cap : Bool) : State.keepsTrims s (s.takePhase cap) := by
  unfold State.takePhase
  dsimp only
  split
  · refine State.keepsTrims_trans (State.keepsTrims_of ?_) (State.phaseMoves_trims _)
    rfl
  · exact State.keepsTrims_of rfl

theorem State.takeLossDeadline_verdicts (s : State) : s.takeLossDeadline.verdicts = s.verdicts := by
  unfold State.takeLossDeadline
  (repeat' split) <;> simp

theorem State.takeRunFall_verdicts (s : State) : s.takeRunFall.verdicts = s.verdicts := by
  unfold State.takeRunFall
  dsimp only
  split <;> simp

/-- The verdict list and the trims stay in their bounds. -/
theorem exec_listOk {c : Instr} {s u : State} (hc : startsOrSaves c = false) (h : s.listOk)
    (hu : exec c s = .next u) : u.listOk := by
  have henter : ∀ t, (s.enter t).listOk := fun t => State.listOk_of_eq h (by simp) (by simp) (by simp)
  have hahead (m : Moment) {f : State → State} (hf : ∀ x : State, State.keepsTrims x (f x))
      (hn : ∀ x, (f x).node = x.node) (hb : ∀ x, (f x).config.banks = x.config.banks) :
      ((s.enter m.time).afterSample m.ahead f).listOk :=
    State.afterSample_keeps _ (henter _) (fun x e hx => State.listOk_of_eq hx (by simp) (by simp) (by simp))
      (fun x hx => State.listOk_of_keeps hx (hf x) (hn x) (hb x))
      (fun x p hx => State.listOk_of_eq hx (by simp) (by simp) (by simp))
  have hcommand : ∀ t a mask op arg, ((s.enter t).takeCommand a mask op arg).listOk :=
    fun t a mask op arg => State.receive_listOk (henter t) a fun x hx => State.testCommand_listOk hx _ _ _ _
  have hrest {x : State} (hv : x.verdicts = s.verdicts) (hn : x.node = s.node)
      (hb : x.config.banks = s.config.banks) : x.listOk := State.listOk_of_eq h hv hn hb
  cases c <;> simp only [startsOrSaves, Bool.true_eq_false] at hc <;> cases hu
  case turretPulse m jar cap =>
    exact hahead m (fun x => x.takePulse_trims _ _ _) (fun x => by simp) (fun x => by simp)
  case pitchLossDeadline m =>
    exact hahead m (fun x => State.keepsTrims_of x.takeLossDeadline_verdicts) (fun x => by simp)
      (fun x => by simp)
  case phaseBoundary m cap =>
    exact hahead m (fun x => x.takePhase_trims cap) (fun x => by simp) (fun x => by simp)
  case runLineFall m =>
    exact hahead m (fun x => State.keepsTrims_of x.takeRunFall_verdicts) (fun x => by simp) (fun x => by simp)
  case joinReceived t a p => exact State.receive_listOk (henter t) a fun x hx => State.hearJoin_listOk hx a
  case verdictReceived t a p =>
    refine State.receive_listOk (henter t) a fun x hx => ?_
    split
    next ht =>
      simp only [State.takesVerdict, Bool.and_eq_true] at ht
      exact State.matchVerdict_listOk hx ht.1.1 p
    · exact hx
  case selectBank => exact hcommand _ _ _ _ _
  case lock => exact hcommand _ _ _ _ _
  case restore => exact hcommand _ _ _ _ _
  case trimReset => exact hcommand _ _ _ _ _
  case clearCounts => exact hcommand _ _ _ _ _
  case report => exact hcommand _ _ _ _ _
  case releaseStop => exact hcommand _ _ _ _ _
  case commandOpUnknown => exact hcommand _ _ _ _ _
  all_goals
    try simp only [State.receive]
    (repeat' split) <;> exact hrest (by simp) (by simp) (by simp)

/-! ### The check station (R144, R163, R165, R166) -/

theorem State.enterMute_stationOk {s : State} (h : s.stationOk) : s.enterMute.stationOk :=
  State.keepsSizes_of (by simp) (by simp) (by simp) (by simp) h

theorem State.receive_stationOk {s : State} (h : s.stationOk) (a : Address) {f : State → State}
    (hf : ∀ x : State, x.stationOk → (f x).stationOk) : (s.receive a f).stationOk :=
  State.receive_keeps s a f State.stationOk h hf fun _ => State.enterMute_stationOk

theorem State.takeRecords_stationOk {s : State} (h : s.stationOk) (a : Address) (x : SealPayload)
    (y : VoidPayload) : (s.takeSeal a x).stationOk ∧ (s.takeVoid a y).stationOk := by
  unfold State.takeSeal State.takeVoid
  split
  · exact ⟨State.takeRecord_sizes _ _ _ _ h, State.takeRecord_sizes _ _ _ _ h⟩
  · exact ⟨h, h⟩

theorem State.hearJoin_stationOk {s : State} (h : s.stationOk) (a : Address) : (s.hearJoin a).stationOk := by
  unfold State.hearJoin State.forgetRevolution
  (repeat' split) <;> exact State.keepsSizes_of (by simp) (by simp) (by simp) (by simp) h

/-- A released stop latch starts the run of rejects again (R170). -/
theorem State.opReleaseStop_stationOk {s : State} (h : s.stationOk) : s.opReleaseStop.stationOk := by
  unfold State.opReleaseStop
  split
  · exact ⟨by simpa using h.transit, by simpa using h.rejects, by simp, by simpa using h.noReading⟩
  · exact State.keepsSizes_of (by simp) (by simp) (by simp) (by simp) h

theorem State.testCommand_stationOk {s : State} (h : s.stationOk) (a : Address) (mask : BitVec 32)
    (op arg : Byte) : (s.testCommand a mask op arg).stationOk := by
  have hcarry : (s.carryOut op arg).stationOk := by
    unfold State.carryOut
    split
    case h_7 => exact State.opReleaseStop_stationOk h
    all_goals exact State.keepsSizes_of (by simp) (by simp) (by simp) (by simp) h
  have hrefused : s.refuseCommand.stationOk := State.keepsSizes_of (s := s) rfl rfl rfl rfl h
  unfold State.testCommand State.testOp
  (repeat' split) <;> first | exact h | exact hrefused | exact hcarry

theorem State.fireGates_stationOk {s : State} (h : s.stationOk) : s.fireGates.stationOk := by
  unfold State.fireGates
  dsimp only
  split
  · exact ⟨h.transit, (List.length_dropWhile _ _).trans h.rejects, h.consecutive, h.noReading⟩
  · exact h

/-- The transit list, the reject queue and the held counts keep to their sizes. -/
theorem exec_stationOk {c : Instr} {s u : State} (hc : startsOrSaves c = false) (h : s.stationOk)
    (hu : exec c s = .next u) : u.stationOk := by
  have hrest {x : State} (ht : x.transit.entries = s.transit.entries) (hr : x.reject = s.reject) :
      x.stationOk := State.keepsSizes_of ht (by rw [hr]) (by rw [hr]) (by rw [hr]) h
  have henter : ∀ t, (s.enter t).stationOk := fun t => hrest (by simp) (by simp)
  have hahead (m : Moment) {f : State → State} (ht : ∀ x, (f x).transit = x.transit)
      (hr : ∀ x, (f x).reject = x.reject) : ((s.enter m.time).afterSample m.ahead f).stationOk :=
    State.afterSample_keeps _ (henter _)
      (fun x e => State.keepsSizes_of (by simp) (by simp) (by simp) (by simp))
      (fun x => State.keepsSizes_of (by rw [ht]) (by rw [hr]) (by rw [hr]) (by rw [hr]))
      (fun x p => State.keepsSizes_of (by simp) (by simp) (by simp) (by simp))
  have hcommand : ∀ t a mask op arg, ((s.enter t).takeCommand a mask op arg).stationOk :=
    fun t a mask op arg => State.receive_stationOk (henter t) a fun x hx =>
      State.testCommand_stationOk hx _ _ _ _
  cases c <;> simp only [startsOrSaves, Bool.true_eq_false] at hc <;> cases hu
  case turretPulse m jar cap => exact hahead m (fun x => by simp) (fun x => by simp)
  case pitchLossDeadline m => exact hahead m (fun x => by simp) (fun x => by simp)
  case phaseBoundary m cap => exact hahead m (fun x => by simp) (fun x => by simp)
  case runLineFall m => exact hahead m (fun x => by simp) (fun x => by simp)
  case joinReceived t a p => exact State.receive_stationOk (henter t) a fun x hx => State.hearJoin_stationOk hx a
  case sealReceived t a p =>
    refine State.receive_stationOk (henter t) a fun x hx => ?_
    split
    · exact (State.takeRecords_stationOk hx a p ⟨0, 0⟩).1
    · exact hx
  case voidReceived t a p =>
    refine State.receive_stationOk (henter t) a fun x hx => ?_
    split
    · exact (State.takeRecords_stationOk hx a ⟨0, 0, 0, 0, 0, 0, 0, 0, 0, 0, 0⟩ p).2
    · exact hx
  case transitWindowClose t =>
    split
    · exact State.closeWindows_sizes _ (henter t)
    · exact henter t
  case jarEdge t =>
    split
    · refine State.jarArrives_sizes _ (State.closeWindows_sizes _ ?_)
      exact State.keepsSizes_of (s := s.enter t) rfl rfl rfl rfl (henter t)
    · exact henter t
  case panelReading t r =>
    split
    · exact State.takeReading_sizes _ _ (henter t)
    · exact henter t
  case readingWindowClose t =>
    split
    · exact State.settleSlot_sizes _ (henter t)
    · exact henter t
  case gatePositionReached t =>
    split
    · exact State.fireGates_stationOk (henter t)
    · exact henter t
  case rejectPulseEnd t =>
    unfold State.endPulse
    (repeat' split) <;> exact State.keepsSizes_of (s := s.enter t) rfl rfl rfl rfl (henter t)
  case conveyorAdvance t b =>
    dsimp only
    split <;> exact State.keepsSizes_of (s := s.enter t) rfl rfl rfl rfl (henter t)
  case selectBank => exact hcommand _ _ _ _ _
  case lock => exact hcommand _ _ _ _ _
  case restore => exact hcommand _ _ _ _ _
  case trimReset => exact hcommand _ _ _ _ _
  case clearCounts => exact hcommand _ _ _ _ _
  case report => exact hcommand _ _ _ _ _
  case releaseStop => exact hcommand _ _ _ _ _
  case commandOpUnknown => exact hcommand _ _ _ _ _
  all_goals
    try simp only [State.receive]
    (repeat' split) <;> exact hrest (by simp) (by simp)

end Sys2Proof.Machine
end

section
/-! The start of the blocks (R1, R45, R68, R121, R135), whole, and the bounds of every step. -/

namespace Sys2Proof.Machine

/-! ### The start of the blocks -/

/-- A stopped tracker keeps its values, any other forgets its lock (R13). -/
theorem Tracker.stop_eq (tr : Tracker) :
    tr.stop = if tr.lock = .stopped then tr
      else { tr with lock := .stopped, tLast := none, inWindow := 0, miss := 0 } := by
  unfold Tracker.stop
  cases htr : tr.lock <;> simp

theorem Closing.inForce_freewheel {c : Closing} (h : c.sent = []) :
    c.inForce .freewheel = { c with command := .freewheel, sent := [.freewheel] } := by
  simp [Closing.inForce, h]

/-- The head's blocks start (R1, R45, R68, R121). -/
theorem State.startBlocks_head {s : State} (hr : s.node.role = .head) (hsent : s.closing.sent = []) :
    s.startBlocks = s.headBlocks s.timeBase := by
  have htracker : (if s.pins.run then s.tracker else s.tracker.stop) =
      if (s.pins.run || s.tracker.lock == .stopped) = true then s.tracker
      else { s.tracker with lock := .stopped, tLast := none, inWindow := 0, miss := 0 } := by
    rw [Tracker.stop_eq]
    cases s.pins.run <;> simp
  unfold State.startBlocks State.headBlocks
  simp only [hr, htracker, State.startSteam, State.startClosing, State.startVerdicts, State.onClosing,
    State.withTracker, State.withSteam, State.withClosing, State.withVerdicts,
    Closing.inForce_freewheel hsent]
  congr 1

/-- The check node's transit tracker starts (R135). -/
theorem State.startBlocks_check {s : State} (hr : s.node.role = .check) (hsent : s.closing.sent = []) :
    s.startBlocks = s.checkBlocks s.timeBase := by
  unfold State.startBlocks State.checkBlocks
  simp [hr, State.startTransit, State.withTransit, ← hsent]

/-! ### The bounds through the start sequence and the power warning -/

/-- The four banks. -/
theorem BankId.eq_cases (b : BankId) : b = 0 ∨ b = 1 ∨ b = 2 ∨ b = 3 := by
  revert b
  decide

/-- A table of four values is read back bank by bank. -/
theorem PerBank.get_table {α : Type} (f : BankId → α) (b : BankId) :
    (⟨f 0, f 1, f 2, f 3⟩ : PerBank α).get b = f b := by
  obtain rfl | rfl | rfl | rfl := BankId.eq_cases b <;> rfl

/-- Nothing of the law depends on the drive-line view, the time or the memory. -/
theorem State.boundsOk_of_eq {s u : State} (h : s.boundsOk) (hn : u.node = s.node)
    (hp : u.closing.phase = s.closing.phase) (hcmd : u.closing.command = s.closing.command)
    (hl : u.closing.limits = s.closing.limits) (ht : u.tracker.pitch = s.tracker.pitch)
    (hv : u.verdicts = s.verdicts) (hb : u.config.banks = s.config.banks) (htr : u.transit = s.transit)
    (hr : u.reject = s.reject) : u.boundsOk where
  drive := Closing.commandOk_of_eq h.drive hp hcmd hl
  waiting hm := by rw [hp]; exact h.waiting (hn ▸ hm)
  pitch := Tracker.pitchOk_of_eq h.pitch ht
  awaited := by rw [hv]; exact h.awaited
  trims := (State.listOk_of_eq ⟨h.awaited, h.trims⟩ hv hn hb).2
  station := State.keepsSizes_of (by rw [htr]) (by rw [hr]) (by rw [hr]) (by rw [hr]) h.station

/-- A node that has left START with its spindle free keeps the bounds, if its trims are held. -/
theorem State.boundsOk_of_started {s u : State} (h : s.boundsOk) (hu : u.node.mode ≠ .start)
    (hphase : u.closing.phase = .free) (hcmd : u.closing.command = .freewheel)
    (hp : u.tracker.pitch = s.tracker.pitch) (ha : u.verdicts.awaited = s.verdicts.awaited)
    (hg : u.verdicts.goodRun = s.verdicts.goodRun)
    (htrims : u.headRuns = true → ∀ b, u.verdicts.trims.get b ≤ (u.bankOf b).trimMax)
    (he : u.transit.entries = s.transit.entries) (hr : u.reject = s.reject) : u.boundsOk where
  drive := by simpa [Closing.commandOk, hphase] using hcmd
  waiting hstart := absurd hstart hu
  pitch := Tracker.pitchOk_of_eq h.pitch hp
  awaited := VerdictList.ok_of_awaited h.awaited ha
  trims := ⟨by rw [hg]; exact h.trims.1, htrims⟩
  station := State.keepsSizes_of he (by rw [hr]) (by rw [hr]) (by rw [hr]) h.station

/-- The trims of a head that has just started (R121). -/
theorem State.headBlocks_trim (s : State) (t : Time) (b : BankId) :
    (s.headBlocks t).verdicts.trims.get b =
      if s.config.usable.get b then min (s.verdicts.trims.get b) (s.config.banks.get b).trimMax else 0 :=
  PerBank.get_table (fun b : BankId =>
    if s.config.usable.get b then min (s.verdicts.trims.get b) (s.config.banks.get b).trimMax else 0) b

/-- Every trim of a head that has just started is held to trim max (R121). -/
theorem State.headBlocks_trims (s : State) (t : Time) (b : BankId) :
    (s.headBlocks t).verdicts.trims.get b ≤ ((s.headBlocks t).bankOf b).trimMax := by
  refine (le_of_eq (s.headBlocks_trim t b)).trans ?_
  split
  · exact min_le_right _ _
  · exact Nat.zero_le _

theorem State.headBlocks_pitch (s : State) (t : Time) :
    (s.headBlocks t).tracker.pitch = s.tracker.pitch := by
  unfold State.headBlocks
  dsimp only
  split <;> rfl

/-- The JOIN and the start of the blocks keep the bounds. -/
theorem State.joinAndEnter_boundsOk {s : State} (h : s.boundsOk) (hm : s.node.mode = .start)
    (hsent : s.closing.sent = []) : s.joinAndEnter.boundsOk := by
  have hphase : s.closing.phase = .free := h.waiting hm
  have hcmd : s.closing.command = .freewheel := by simpa [Closing.commandOk, hphase] using h.drive
  unfold State.joinAndEnter
  dsimp only
  split
  · exact State.boundsOk_of_started h (by simp) (by simpa using hphase) (by simpa using hcmd) (by simp)
      (by simp) (by simp) (by simp [State.headRuns]) (by simp) (by simp)
  · generalize hx : (s.offer s.joinNotice).withNode _ = x
    have hmode : x.node.mode ≠ .start := by subst hx; simp
    have hclosing : x.closing = s.closing := by subst hx; simp
    have htracker : x.tracker = s.tracker := by subst hx; simp
    have hverdicts : x.verdicts = s.verdicts := by subst hx; simp
    have htransit : x.transit = s.transit := by subst hx; simp
    have hreject : x.reject = s.reject := by subst hx; simp
    cases hrole : x.node.role
    case head =>
      rw [State.startBlocks_head hrole (by rw [hclosing, hsent])]
      exact State.boundsOk_of_started h hmode (by simp [State.headBlocks, hclosing, hphase]) rfl
        (by rw [State.headBlocks_pitch, htracker]) (by simp [State.headBlocks, hverdicts])
        (by simp [State.headBlocks, hverdicts]) (fun _ => x.headBlocks_trims _)
        (by simp [State.headBlocks, htransit]) (by simp [State.headBlocks, hreject])
    case check =>
      rw [State.startBlocks_check hrole (by rw [hclosing, hsent])]
      exact State.boundsOk_of_started h hmode (by simp [State.checkBlocks, hclosing, hphase])
        (by simp [State.checkBlocks, hclosing, hcmd]) (by simp [State.checkBlocks, htracker])
        (by simp [State.checkBlocks, hverdicts]) (by simp [State.checkBlocks, hverdicts])
        (by simp [State.checkBlocks, State.headRuns, hrole]) (by simp [State.checkBlocks, htransit])
        (by simp [State.checkBlocks, hreject])

theorem State.crystalStarts_boundsOk {s : State} (h : s.boundsOk) (hm : s.node.mode = .start)
    (hsent : s.closing.sent = []) : s.crystalStarts.boundsOk := by
  have hcrystal : (s.withNode { s.node with onCrystal := true }).boundsOk :=
    ⟨h.drive, h.waiting, h.pitch, h.awaited, h.trims, State.keepsSizes_of (s := s) rfl rfl rfl rfl h.station⟩
  unfold State.crystalStarts
  dsimp only
  split
  · exact State.joinAndEnter_boundsOk hcrystal hm hsent
  · exact State.joinAndEnter_boundsOk
      (State.boundsOk_of_eq hcrystal rfl rfl rfl rfl rfl rfl rfl rfl rfl) hm hsent

theorem State.crystalFails_boundsOk {s : State} (h : s.boundsOk) (hm : s.node.mode = .start)
    (hsent : s.closing.sent = []) : s.crystalFails.boundsOk :=
  State.joinAndEnter_boundsOk (State.boundsOk_of_eq h rfl rfl rfl rfl rfl rfl rfl rfl rfl) hm hsent

/-- Reset values obey the bounds. -/
theorem State.boundsOk_of_reset {s : State} (hm : s.headRuns = false) (hc : s.closing = Closing.reset)
    (ht : s.tracker = Tracker.reset) (ha : s.verdicts.awaited = [])
    (hg : s.verdicts.goodRun = PerBank.all 0) (htr : s.transit = Transit.reset)
    (hr : s.reject = RejectUnit.reset) : s.boundsOk where
  drive := by rw [hc]; rfl
  waiting _ := by rw [hc]; rfl
  pitch := by rw [ht]; exact nofun
  awaited := by simp [VerdictList.ok, ha]
  trims := ⟨fun b => by rw [hg, PerBank.get_all_zero]; decide, fun h => absurd h (by simp [hm])⟩
  station := ⟨by rw [htr]; decide, by rw [hr]; decide, by rw [hr]; decide, by rw [hr]; decide⟩

/-- The start sequence leaves every block within its bounds. -/
theorem State.startSequence_boundsOk (s : State) (cause : ResetCause) (inp : StartInputs) :
    (s.startSequence cause inp).boundsOk := by
  obtain ⟨-, -, -, -, htracker, -, hclosing, htransit, hreject, hawaited, hrun, -, hmode, -⟩ :=
    State.afterStepFive_blocks s cause inp
  have hfive : (s.afterStepFive cause inp).boundsOk :=
    State.boundsOk_of_reset (State.headRuns_of_start hmode) hclosing htracker hawaited hrun htransit hreject
  rw [State.startSequence_cases]
  split_ifs
  · exact State.boundsOk_of_reset rfl rfl rfl rfl rfl rfl rfl
  · exact State.crystalStarts_boundsOk hfive hmode (by rw [hclosing]; rfl)
  · exact State.boundsOk_of_reset (State.headRuns_of_start hmode) hclosing htracker hawaited hrun htransit
      hreject

/-- A node in SAVED runs no list, so its trims are under no bound (R122). -/
theorem State.boundsOk_of_saved {s u : State} (h : s.boundsOk) (hu : u.node.mode = .saved)
    (hd : u.closing.commandOk) (ht : u.tracker = s.tracker) (hk : State.keepsTrims s u)
    (hs : State.keepsSizes s u) : u.boundsOk where
  drive := hd
  waiting hm := by simp [hu] at hm
  pitch := by rw [ht]; exact h.pitch
  awaited := hk.1 h.awaited
  trims := ⟨by rw [hk.2.2]; exact h.trims.1, fun hr => by simp [State.headRuns, hu] at hr⟩
  station := hs h.station

theorem State.takeWarning_boundsOk {s : State} (h : s.boundsOk) : s.takeWarning.boundsOk := by
  have hsame {u : State} (hu : u.node.mode = .saved) (hc : u.closing = s.closing)
      (ht : u.tracker = s.tracker) (hv : u.verdicts = s.verdicts) (hen : u.transit = s.transit)
      (hq : u.reject.queue = s.reject.queue) (hn : u.reject.consecutive = s.reject.consecutive)
      (hr : u.reject.noReading = s.reject.noReading) : u.boundsOk :=
    State.boundsOk_of_saved h hu (by rw [hc]; exact h.drive) ht (State.keepsTrims_of hv)
      (State.keepsSizes_of (by rw [hen]) hq hn hr)
  unfold State.takeWarning
  cases hm : s.node.mode
  case operating =>
    cases s.node.role
    case head =>
      refine State.boundsOk_of_saved h rfl (State.abortPower_driveOk h.drive) ?_ ?_ ?_
      · simp [State.beginSave, State.warnHead]
      · exact s.abortPower_trims
      · exact State.keepsSizes_of (by simp [State.beginSave, State.warnHead])
          (by simp [State.beginSave, State.warnHead]) (by simp [State.beginSave, State.warnHead])
          (by simp [State.beginSave, State.warnHead])
    case check => exact hsame rfl rfl rfl rfl rfl rfl rfl rfl
  case halted => exact hsame rfl rfl rfl rfl rfl rfl rfl rfl
  case start =>
    dsimp only
    split <;> exact hsame rfl rfl rfl rfl rfl rfl rfl rfl
  case saved => exact h

theorem State.takeAssertion_boundsOk {s : State} (h : s.boundsOk) : s.takeAssertion.boundsOk := by
  unfold State.takeAssertion
  split
  · exact h
  · exact State.takeWarning_boundsOk (State.boundsOk_of_eq h rfl rfl rfl rfl rfl rfl rfl rfl rfl)

/-! ### Every command -/

theorem exec_boundsOk {c : Instr} {s u : State} (h : s.boundsOk) (hu : exec c s = .next u) :
    u.boundsOk := by
  have henter : ∀ t, (s.enter t).boundsOk := fun t =>
    State.boundsOk_of_eq h (by simp) (by simp) (by simp) (by simp) (by simp) (by simp) (by simp) (by simp)
      (by simp)
  have hsent : ∀ t, (s.enter t).closing.sent = [] := fun t => by simp
  cases hc : startsOrSaves c
  case false =>
    obtain ⟨hawaited, htrims⟩ := exec_listOk hc ⟨h.awaited, h.trims⟩ hu
    refine ⟨exec_driveOk hc h.drive hu, fun hm => ?_, exec_pitchOk hc h.pitch hu, hawaited, htrims,
      exec_stationOk hc h.station hu⟩
    obtain ⟨-, hnode, -⟩ := exec_sameNode hc hu
    rw [hnode] at hm
    rw [(exec_idle_rests hc (State.headRuns_of_start hm) hu).2]
    exact h.waiting hm
  case true =>
    cases c <;> simp only [startsOrSaves, Bool.false_eq_true] at hc <;> cases hu
    case powerOnReset => exact State.startSequence_boundsOk _ _ _
    case resetLine => exact State.startSequence_boundsOk _ _ _
    case crystalReady t =>
      split
      next hw =>
        exact State.crystalStarts_boundsOk (henter t) ((State.inCrystalWait_iff _).mp hw).1 (hsent t)
      · exact henter t
    case crystalWaitExpiry t =>
      split
      next hw =>
        exact State.crystalFails_boundsOk (henter t)
          ((State.inCrystalWait_iff _).mp (Bool.and_eq_true_iff.mp hw).1).1 (hsent t)
      · exact henter t
    case powerWarningAsserted m =>
      refine State.afterSample_keeps _ (henter _) (fun x e hx => ?_) (fun x => State.takeAssertion_boundsOk)
        (fun x p hx => ?_)
      · refine ⟨State.unitTakes_driveOk hx.drive e, fun hm => ?_, by simpa using hx.pitch,
          by simpa using hx.awaited,
          (State.listOk_of_eq ⟨hx.awaited, hx.trims⟩ (by simp) (by simp) (by simp)).2,
          State.keepsSizes_of (by simp) (by simp) (by simp) (by simp) hx.station⟩
        have hstart : x.node.mode = .start := by simpa using hm
        rw [State.unitTakes_idle (State.headRuns_of_start hstart)]
        exact hx.waiting hstart
      · exact State.boundsOk_of_eq hx (by simp) (by simp) (by simp) (by simp) (by simp) (by simp) (by simp)
          (by simp) (by simp)
    case saveComplete t start =>
      split
      · dsimp only
        split
        · exact State.boundsOk_of_saved (henter t) (by simp_all [State.isSaving, State.finishSave])
            (henter t).drive rfl (State.keepsTrims_of rfl) (State.keepsSizes_of rfl rfl rfl rfl)
        · exact State.startSequence_boundsOk _ _ _
      · exact henter t
    case powerWarningNegated t start =>
      split
      · dsimp only
        split
        · exact State.startSequence_boundsOk _ _ _
        · exact State.boundsOk_of_eq (henter t) rfl rfl rfl rfl rfl rfl rfl rfl rfl
      · exact henter t

/-- Settles O59: each block keeps its own bound, and a start gives every block reset values with the trims
held. -/
theorem boundsKept : Obligations.BoundsKept :=
  fun _ _ => step_keeps (fun _ _ h => State.boundsOk_of_eq h rfl rfl rfl rfl rfl rfl rfl rfl rfl)
    fun _ _ _ => exec_boundsOk

/-! ### The state after reset -/

/-- Settles O60: the state after reset holds the blocks' reset values and an empty memory. -/
theorem resetObeysTheLaws : Obligations.ResetObeysTheLaws :=
  ⟨⟨Memory.nil_wf, nofun⟩, ⟨Link.ok.empty rfl, fun _ => nofun⟩, ⟨Steam.reset_ok _ _, fun _ => rfl⟩,
    State.boundsOk_of_reset rfl rfl rfl rfl rfl rfl rfl⟩

end Sys2Proof.Machine
end

section
/-! Steps and commands, and the start sequence from the reset to the end of the crystal wait (R182 to R185,
R187). -/

namespace Sys2Proof.Machine

/-! ### Steps and commands -/

/-- Settles O1: the step of log 2, by its two cases. -/
theorem stepRunsFrontCommand : Obligations.StepRunsFrontCommand := by
  intro s
  refine ⟨fun c rest hs => ?_, fun hs => ?_⟩ <;> simp [step, hs]

/-- Settles O2: every row of the opcode table is a total effect. -/
theorem everyCommandAnswers : Obligations.EveryCommandAnswers := by
  intro c s
  cases c <;> exact ⟨_, rfl⟩

/-! ### The JOIN -/

/-- An ACTIVE link with an empty queue takes the JOIN up, any other link drops it (R115, R116). -/
theorem State.offer_join {s : State} (hq : s.link.queue = []) (j : JoinPayload) :
    s.offer (.join j) =
      if s.link.state = .active then
        s.withLink { s.link with queue := [⟨.join j, false⟩], wire := [], shutOvertaken := false }
      else s.countLink fun c => { c with linkDropped := c.linkDropped + 1 } := by
  cases hl : s.link.state <;>
    simp [State.offer, State.joinQueue, hl, hq, queueCapacity, insertEntry, Link.withQueue]

/-- The JOIN flags of R185, bit by bit. -/
theorem joinFlags_eq (n : Node) : joinFlags n =
    (if n.unclean then 0x80#8 else 0) ||| (if n.configBad then 0x40#8 else 0) |||
      (if n.strapsBad then 0x20#8 else 0) := by
  unfold joinFlags
  generalize n.unclean = a, n.configBad = b, n.strapsBad = c
  revert a b c
  decide

theorem Node.halts_false {n : Node} (h : n.halts = false) : n.configBad = false ∧ n.strapsBad = false := by
  simpa [Node.halts] using h

/-- The JOIN of a node whose checks have passed. -/
theorem State.joinNotice_passed {s : State} (h : s.node.halts = false) : s.joinNotice = .join
    { role := s.node.role.code, cause := s.node.cause.code, signature := s.config.signature
      activeBank := if s.node.role = .head then bankByte s.seq.activeBank else 0
      flags := if s.node.unclean then 0x80#8 else 0 } := by
  obtain ⟨hconfig, hstraps⟩ := Node.halts_false h
  simp [State.joinNotice, joinFlags_eq, h, hconfig, hstraps]

/-- The JOIN of a node that found a failure names no bank. -/
theorem State.joinNotice_failed {s : State} (h : s.node.halts = true) : s.joinNotice = .join
    { role := if s.node.role = .head then 0 else 1, cause := s.node.cause.code
      signature := s.config.signature, activeBank := 0
      flags := (if s.node.unclean then 0x80#8 else 0) ||| (if s.node.configBad then 0x40#8 else 0) |||
        (if s.node.strapsBad then 0x20#8 else 0) } := by
  unfold State.joinNotice
  rw [joinFlags_eq]
  cases hr : s.node.role <;> simp [h, Role.code]

/-! ### The end of the crystal wait -/

/-- A node that found a failure only offers its JOIN (R183 step 8). -/
theorem State.joinAndEnter_halted {s : State} (h : s.node.halts = true) :
    s.joinAndEnter = (s.offer s.joinNotice).withNode
      { s.node with mode := .halted, awaitingCrystal := false } := by
  simp [State.joinAndEnter, h]

/-- A node whose checks have passed offers its JOIN and starts its blocks (R183 step 8). -/
theorem State.joinAndEnter_operating {s : State} (h : s.node.halts = false) :
    s.joinAndEnter = ((s.offer s.joinNotice).withNode
      { s.node with mode := .operating, awaitingCrystal := false }).startBlocks := by
  simp [State.joinAndEnter, h]

/-- A node in START has no head's blocks, so taking a command moves no phase. -/
theorem State.enter_idle {s : State} (h : s.headRuns = false) (t : Time) :
    s.enter t = { s with timeBase := t, closing := { s.closing with sent := [] } } := by
  unfold State.enter
  dsimp only
  split
  next hruns => exact absurd (show s.headRuns = true from hruns) (by simp [h])
  · rfl

/-- The wait with its crystal ready, before the JOIN (R183 step 6). -/
def State.readied (s : State) : State :=
  { s with
    node := { s.node with onCrystal := true }
    link := if s.link.state = .off then s.link else { s.link with state := .active } }

@[simp] theorem State.readied_queue (s : State) : s.readied.link.queue = s.link.queue := by
  unfold State.readied
  dsimp only
  split <;> rfl

theorem State.crystalStarts_eq (s : State) : s.crystalStarts = s.readied.joinAndEnter := by
  unfold State.crystalStarts State.readied
  by_cases h : s.link.state = .off <;> simp [h] <;> rfl

theorem exec_crystalReady {s : State} (t : Time) (hm : s.node.mode = .start)
    (hw : s.node.awaitingCrystal = true) :
    exec (.crystalReady t) s = .next (s.enter t).readied.joinAndEnter := by
  have hexec : exec (.crystalReady t) s = execCrystalReady t s := rfl
  simp [hexec, execCrystalReady, (s.inCrystalWait_iff).mpr ⟨hm, hw⟩, State.crystalStarts_eq]

theorem exec_crystalWaitExpiry_due {s : State} {t : Time} (hm : s.node.mode = .start)
    (hw : s.node.awaitingCrystal = true) (ht : 0 ≤ since t 50000#32) :
    exec (.crystalWaitExpiry t) s = .next (s.enter t).crystalFails := by
  have hexec : exec (.crystalWaitExpiry t) s = execCrystalWaitExpiry t s := rfl
  have hreached : reached t crystalWaitUs = true := decide_eq_true ht
  simp [hexec, execCrystalWaitExpiry, (s.inCrystalWait_iff).mpr ⟨hm, hw⟩, hreached]

theorem exec_crystalWaitExpiry_early {s : State} {t : Time} (ht : ¬ 0 ≤ since t 50000#32) :
    exec (.crystalWaitExpiry t) s = .next (s.enter t) := by
  have hexec : exec (.crystalWaitExpiry t) s = execCrystalWaitExpiry t s := rfl
  have hreached : reached t crystalWaitUs = false := decide_eq_false ht
  simp [hexec, execCrystalWaitExpiry, hreached]

/-- Settles O7: the JOIN stands alone in the queue, and the blocks of the role start. -/
theorem crystalStartsAHead : Obligations.CrystalStartsAHead := by
  intro s t hm hw hpassed hl hq joins runs
  have hidle := State.headRuns_of_start hm
  have hpass : (s.enter t).readied.node.halts = false := by simpa [State.readied, Node.halts] using hpassed
  rw [exec_crystalReady t hm hw, State.joinAndEnter_operating hpass, State.joinNotice_passed hpass,
    State.offer_join (by simpa using hq)]
  constructor <;> intro hr
  · rw [State.startBlocks_head (by simpa [State.readied] using hr) (by simp [State.readied, hl])]
    simp [State.readied, State.enter_idle hidle, hl, hr, runs, joins, State.headBlocks, State.own,
      State.withLink, State.withNode, Role.code]
  · rw [State.startBlocks_check (by simpa [State.readied] using hr) (by simp [State.readied, hl])]
    simp [State.readied, State.enter_idle hidle, hl, hr, runs, joins, State.checkBlocks,
      State.withLink, State.withNode, Role.code]

/-- A link that is OFF drops the JOIN (R115). -/
theorem State.crystalFails_eq {s : State} : s.crystalFails =
    if s.node.halts then { s with
      node := { s.node with mode := .halted, awaitingCrystal := false }
      link := { s.link with state := .off }
      counters := { s.counters with
        link := { s.counters.link with linkDropped := s.counters.link.linkDropped + 1 } } }
    else ({ s with
      node := { s.node with mode := .operating, awaitingCrystal := false }
      link := { s.link with state := .off }
      counters := { s.counters with
        link := { s.counters.link with linkDropped := s.counters.link.linkDropped + 1 } } } :
      State).startBlocks := by
  unfold State.crystalFails
  split
  next h =>
    rw [State.joinAndEnter_halted (by simpa using h), State.offer_silent (by simp)]
    rfl
  next h =>
    rw [State.joinAndEnter_operating (by simpa using h), State.offer_silent (by simp)]
    rfl

/-- Settles O8: the JOIN is dropped on a link that is OFF, and the blocks start as with the crystal. -/
theorem crystalWaitEnds : Obligations.CrystalWaitEnds := by
  intro s t hm hw runs
  have hidle := State.headRuns_of_start hm
  refine ⟨fun ht => ?_, fun ht hpass hr => ?_, fun ht hpass hr => ?_⟩
  · rw [exec_crystalWaitExpiry_early ht, State.enter_idle hidle]
  · rw [exec_crystalWaitExpiry_due hm hw ht, State.crystalFails_eq, if_neg (by simpa using hpass),
      State.startBlocks_head (by simpa using hr) (by simp)]
    simp [State.enter_idle hidle, runs, State.headBlocks, State.own]
  · rw [exec_crystalWaitExpiry_due hm hw ht, State.crystalFails_eq, if_neg (by simpa using hpass),
      State.startBlocks_check (by simpa using hr) (by simp)]
    simp [State.enter_idle hidle, runs, State.checkBlocks]

/-- Settles O9: a halting node changes nothing but its mode, its link and the counters of the link. -/
theorem failedStartHalts : Obligations.FailedStartHalts := by
  intro s t hm hw hfailed silent halted joins dropped
  have hidle := State.headRuns_of_start hm
  have hfail : (s.enter t).readied.node.halts = true := by simpa [State.readied, Node.halts] using hfailed
  have hjoin := State.joinNotice_failed hfail
  refine ⟨⟨_, exec_crystalReady t hm hw, ?_⟩, fun ht => ⟨_, exec_crystalWaitExpiry_due hm hw ht, ?_⟩⟩
  · rw [State.joinAndEnter_halted hfail]
    refine ⟨by simp [State.readied, halted], by simp [State.lamp], ?_, ?_, by simp [State.readied],
      by simp [State.readied], by simp [State.readied], by simp [State.readied], by simp [State.readied],
      by simp [State.readied], by simp [State.readied, silent], fun hl hq => ?_, fun hl => ?_⟩
    · simp only [State.withNode_link, State.offer_linkState]
      by_cases h : s.link.state = .off <;> simp [State.readied, h]
    · simp [State.readied, State.enter_tracker, hidle]
    · rw [hjoin, State.offer_join (by simpa using hq)]
      simp [State.readied, State.enter_idle hidle, hl, silent, halted, joins, State.withLink,
        State.withNode]
    · rw [State.offer_silent (by simp [State.readied, hl])]
      simp [State.readied, State.enter_idle hidle, hl, silent, halted, dropped, State.countLink,
        State.withCounters, State.withNode]
  · rw [State.crystalFails_eq, if_pos (by simpa using hfailed)]
    refine ⟨by simp [State.lamp], ?_⟩
    simp [State.enter_idle hidle, silent, halted, dropped]

end Sys2Proof.Machine
end

section
/-! Resets (R182 to R187): what a reset leaves in the crystal wait, under the power warning, and of the
persistent area; and the lamp (R188). -/

namespace Sys2Proof.Machine

/-! ### The crystal ready at the reset -/

/-- The end of the crystal wait does not read that the node was waiting. -/
theorem State.joinAndEnter_awaiting {s : State} (hq : s.link.queue = []) (b : Bool) :
    (s.withNode { s.node with awaitingCrystal := b }).joinAndEnter = s.joinAndEnter := by
  have hnotice : (s.withNode { s.node with awaitingCrystal := b }).joinNotice = s.joinNotice := rfl
  have hempty : (s.withNode { s.node with awaitingCrystal := b }).link.queue = [] := hq
  cases h : s.node.halts
  · rw [State.joinAndEnter_operating h, State.joinAndEnter_operating (by simpa [Node.halts] using h),
      hnotice, State.joinNotice, State.offer_join hq, State.offer_join hempty]
    by_cases hl : s.link.state = .active <;> simp only [State.withNode_link, hl, if_true, if_false] <;> rfl
  · rw [State.joinAndEnter_halted h, State.joinAndEnter_halted (by simpa [Node.halts] using h),
      hnotice, State.joinNotice, State.offer_join hq, State.offer_join hempty]
    by_cases hl : s.link.state = .active <;> simp only [State.withNode_link, hl, if_true, if_false] <;> rfl

/-- A start sequence with the crystal ready already does what CRYSTAL_READY at 0 does to the wait (R183
step 6). -/
theorem State.startSequence_ready {s : State} {inp : StartInputs} (c : ResetCause)
    (hc : inp.crystalReady = false) (hp : s.pins.pwarn = false) :
    exec (.crystalReady 0) (s.startSequence c inp) =
      .next (s.startSequence c { inp with crystalReady := true }) := by
  obtain ⟨-, htime, -, -, -, -, hclosing, -, -, -, -, -, hmode, -, -, -, -, -, hlink⟩ :=
    State.afterStepFive_blocks s c inp
  have hwait : s.startSequence c inp = (s.afterStepFive c inp).withNode
      { (s.afterStepFive c inp).node with awaitingCrystal := true } := by
    rw [State.startSequence_cases]
    simp [hp, hc]
  have hready : s.startSequence c { inp with crystalReady := true } =
      (s.afterStepFive c inp).readied.joinAndEnter := by
    rw [State.startSequence_cases, ← State.crystalStarts_eq]
    simp only [hp, Bool.false_eq_true, if_false, if_true]
    rfl
  rw [hready, hwait]
  generalize s.afterStepFive c inp = x at *
  have hnow : (x.withNode { x.node with awaitingCrystal := true }).enter 0 =
      x.withNode { x.node with awaitingCrystal := true } := by
    rw [State.enter_idle (by exact State.headRuns_of_start hmode)]
    simp only [State.withNode, hclosing, htime]
    rfl
  rw [exec_crystalReady 0 (by exact hmode) rfl, hnow]
  exact congrArg _ (State.joinAndEnter_awaiting (s := x.readied)
    (by simp [hlink, Link.reset]) true)

/-- Settles O4: a reset is the start sequence run on the memory that the cut save has left. -/
theorem resetStarts : Obligations.ResetStarts := by
  intro s inp cut hc
  refine ⟨fun levels hp => ?_, fun hp => ?_⟩
  · obtain ⟨hstarted, hpins⟩ := State.startSequence_started inp .power hc
      (s := (s.cutSave cut).withPins
        { s.pins with pwarn := levels.pwarn, run := levels.run, valveOpen := levels.valveOpen }) hp
    exact ⟨_, rfl, hstarted, by rw [← hp]; exact hpins, (State.startSequence_ready .power hc hp).symm⟩
  · obtain ⟨hstarted, hpins⟩ := State.startSequence_started inp .pin hc (s := s.cutSave cut) hp
    exact ⟨_, rfl, hstarted, hpins, (State.startSequence_ready (s := s.cutSave cut) .pin hc hp).symm⟩

/-! ### Under the power warning -/

/-- A reset under the power warning leaves the reset values and nothing to write (R186). -/
theorem State.startSequence_warned {s : State} (c : ResetCause) (inp : StartInputs)
    (hp : s.pins.pwarn = true) : s.startSequence c inp = { State.reset with
      pending := s.pending, memory := startMemory s.memory inp, pins := s.pins
      node := { Node.reset with cause := c, mode := .saved } } := by
  rw [State.startSequence_cases, if_pos hp]
  rfl

/-- The bytes of a save but for the marker, in address order (10.1). -/
def Persistent.bytes (p : Persistent) : List Byte :=
  [p.activeBank] ++ bytesOfHalf p.trims.b0 ++ bytesOfHalf p.trims.b1 ++ bytesOfHalf p.trims.b2
    ++ bytesOfHalf p.trims.b3 ++ bytesOfCount p.lifetime.one ++ bytesOfCount p.lifetime.two
    ++ bytesOfCount p.lifetime.three ++ bytesOfCount p.lifetime.four

theorem saveWrites_eq (p : Persistent) : saveWrites p = writesFrom 449 p.bytes ++ [(448, p.marker)] := rfl

theorem Persistent.bytes_length (p : Persistent) : p.bytes.length = 25 := rfl

/-- A save that is cut short has not yet written the marker, its last byte (R187). -/
theorem saveWrites_take_marker {p : Persistent} {cut : Nat} (hcut : cut < 26) :
    ∀ w ∈ (saveWrites p).take cut, w.1 ≠ 448 ∧ w.1 < Config.memoryBytes := by
  intro w hw
  have hcount : (writesFrom 449 p.bytes).length = 25 := rfl
  rw [saveWrites_eq, List.take_append_of_le_length (by omega)] at hw
  have hrange := writesFrom_mem (List.mem_of_mem_take hw)
  rw [p.bytes_length] at hrange
  simp only [Config.memoryBytes]
  omega

/-- Settles O5: a warned reset keeps the memory, and a cut save has not come to the marker. -/
theorem resetUnderWarning : Obligations.ResetUnderWarning := by
  intro s inp cut m
  refine ⟨fun levels hp => ?_, fun hp => ?_, fun p hok hsaving hcut hchanges => ?_⟩
  · have hexec : exec (.powerOnReset inp cut levels) s = execPowerOnReset inp cut levels s := rfl
    rw [hexec, execPowerOnReset, State.startSequence_warned .power inp (by simpa using hp)]
    simp [State.cutSave, m, hp]
  · have hexec : exec (.resetLine inp cut) s = execResetLine inp cut s := rfl
    rw [hexec, execResetLine, State.startSequence_warned .pin inp (by simpa [State.cutSave] using hp)]
    simp [State.cutSave, m]
  · have hmem : m = Memory.writeAll s.memory ((saveWrites p).take cut) := by
      simp [m, startMemory, hchanges, hsaving, Memory.writeAll]
    rw [hmem]
    exact Memory.read_writeAll_other hok.1 fun w hw =>
      ⟨(saveWrites_take_marker hcut w hw).1, (saveWrites_take_marker hcut w hw).2⟩

/-! ### Restarts and completed saves -/

theorem exec_powerWarningNegated {s : State} (t : Time) (inp : StartInputs) (hm : s.node.mode = .saved)
    (hp : s.pins.pwarn = true) :
    exec (.powerWarningNegated t inp) s = .next
      (if s.node.saving = [] then
        ((s.enter t).withPins { s.pins with pwarn := false }).startSequence .warnRecovery inp
      else (s.enter t).withPins { s.pins with pwarn := false }) := by
  have hexec : exec (.powerWarningNegated t inp) s = execPowerWarningNegated t inp s := rfl
  by_cases hs : s.node.saving = [] <;>
    simp [hexec, execPowerWarningNegated, State.isSaving, hm, hp, hs]

theorem exec_saveComplete {s : State} (t : Time) (inp : StartInputs) (hm : s.node.mode = .saved)
    (hs : s.node.saving ≠ []) :
    exec (.saveComplete t inp) s = .next
      (if s.pins.pwarn then (s.enter t).finishSave
      else (s.enter t).finishSave.startSequence .warnRecovery inp) := by
  have hexec : exec (.saveComplete t inp) s = execSaveComplete t inp s := rfl
  simp [hexec, execSaveComplete, State.isSaving, hm, hs, State.finishSave]

/-- Settles O13: a restart is the start sequence run on the memory that the save has left. -/
theorem negationRestarts : Obligations.NegationRestarts := by
  intro s t inp hc hm
  refine ⟨fun hp hs => ?_, fun hp hs => ?_, fun hp hs => ?_⟩
  · obtain ⟨hstarted, hpins⟩ := State.startSequence_started inp .warnRecovery hc
      (s := (s.enter t).withPins { s.pins with pwarn := false }) rfl
    simp only [exec_powerWarningNegated t _ hm hp, hs, if_true]
    exact ⟨_, rfl, by simpa using hstarted, by simpa using hpins,
      (State.startSequence_ready .warnRecovery hc rfl).symm⟩
  · rw [exec_powerWarningNegated t _ hm hp, if_neg hs]
    rfl
  · have hline : (s.enter t).finishSave.pins.pwarn = false := by simpa [State.finishSave] using hp
    obtain ⟨hstarted, hpins⟩ := State.startSequence_started inp .warnRecovery hc hline
    simp only [exec_saveComplete t _ hm hs, hp, Bool.false_eq_true, if_false]
    exact ⟨_, rfl, by simpa [State.finishSave] using hstarted, by simpa [State.finishSave] using hpins,
      (State.startSequence_ready .warnRecovery hc hline).symm⟩

end Sys2Proof.Machine
end

section
/-! The persistent area: what step 5 of a start takes from it (R184), and what a save puts there (R186). -/

namespace Sys2Proof.Machine

/-! ### Step 5 -/

/-- The state at the end of step 4: straps and memory read and checked (R183). -/
def State.afterStepFour (s : State) (cause : ResetCause) (inp : StartInputs) : State :=
  (((s.afterReset cause).withMemory (startMemory s.memory inp)).readStraps inp).readConfig inp

theorem State.afterStepFive_eq (s : State) (cause : ResetCause) (inp : StartInputs) :
    s.afterStepFive cause inp = (s.afterStepFour cause inp).takePersistent := rfl

/-- Step 4 has read the persistent area and left the rest of it for step 5 (R173, R184). -/
theorem State.afterStepFour_parts (s : State) (cause : ResetCause) (inp : StartInputs) :
    (s.afterStepFour cause inp).memory = startMemory s.memory inp ∧
    (s.afterStepFour cause inp).config.persistent = startPersistent s.memory inp ∧
    (s.afterStepFour cause inp).config.lifetime = Lifetime.zero ∧
    (s.afterStepFour cause inp).node.unclean = false ∧
    (s.afterStepFour cause inp).node.role = (if inp.roleHigh then .check else .head) ∧
    (s.afterStepFour cause inp).verdicts = VerdictList.reset := by
  obtain ⟨hmemory, hconfig, hnode, -, hverdicts⟩ :=
    State.readStraps_parts ((s.afterReset cause).withMemory (startMemory s.memory inp)) inp
  have hbytes : (((s.afterReset cause).withMemory (startMemory s.memory inp)).readStraps inp).configBytes inp =
      startBytes s.memory inp := by
    unfold State.configBytes
    rw [hmemory]
    rfl
  unfold State.afterStepFour State.readConfig
  simp only [hbytes]
  refine ⟨by simpa using hmemory, rfl, ?_, ?_, ?_, ?_⟩ <;>
    simp [hconfig, hnode, hverdicts] <;> rfl

/-- A node that is to go HALTED leaves its persistent area alone (R184). -/
theorem State.takePersistent_halted {s : State} (h : s.node.halts = true) : s.takePersistent = s := by
  simp [State.takePersistent, h]

/-- A valid marker vouches for the lifetime counters, and for a head's trims and active bank; it is written
invalid (R19, R184). -/
theorem State.takePersistent_clean {s : State} (h : s.node.halts = false)
    (hmarker : s.config.persistent.marker = 0xA5#8) :
    s.takePersistent.memory = Memory.write s.memory 448 0 ∧ s.takePersistent.node = s.node ∧
    s.takePersistent.config = { s.config with
      lifetime := s.config.persistent.lifetime, persistent := { s.config.persistent with marker := 0 } } ∧
    (s.node.role = .head →
      s.takePersistent.verdicts.trims = s.config.persistent.trims.map BitVec.toNat ∧
      s.takePersistent.seq.activeBank = s.handedBank true) := by
  cases hr : s.node.role <;>
    simp [State.takePersistent, h, hmarker, cleanMarker, persistentBase, hr]

/-- Without a valid marker the node starts from the defaults with UNCLEAN (R184). -/
theorem State.takePersistent_unclean {s : State} (h : s.node.halts = false)
    (hmarker : s.config.persistent.marker ≠ 0xA5#8) :
    s.takePersistent.memory = s.memory ∧ s.takePersistent.node = { s.node with unclean := true } ∧
    s.takePersistent.config = s.config ∧
    (s.node.role = .head →
      s.takePersistent.verdicts.trims = PerBank.all 0 ∧
      s.takePersistent.seq.activeBank = s.handedBank false) := by
  have hunclean : (s.config.persistent.marker == cleanMarker) = false := by simpa [cleanMarker] using hmarker
  cases hr : s.node.role <;> simp [State.takePersistent, h, hunclean, hr]

/-- The bank handed to the sequencer (R19, log 19). -/
theorem State.handedBank_eq (s : State) : s.handedBank true =
    (if s.config.persistent.activeBank.toNat ≤ 3 ∧
        s.config.usable.get (BitVec.ofNat 2 s.config.persistent.activeBank.toNat) = true then
      BitVec.ofNat 2 s.config.persistent.activeBank.toNat
    else BitVec.ofNat 2 s.config.header.initialBank) ∧
    s.handedBank false = BitVec.ofNat 2 s.config.header.initialBank := by
  simp [State.handedBank, usableNumber]

/-! ### From step 5 to the end of the reset -/

/-- The JOIN of an empty queue leaves the configuration unit. -/
theorem State.joinAndEnter_config {s : State} (hq : s.link.queue = []) :
    s.joinAndEnter.config = s.config := by
  have hoffer : (s.offer s.joinNotice).config = s.config := by
    rw [State.joinNotice, State.offer_join hq]
    split <;> simp
  cases h : s.node.halts
  · rw [State.joinAndEnter_operating h]
    simpa using hoffer
  · rw [State.joinAndEnter_halted h]
    simpa using hoffer

/-- The trims of a head that has joined are held to trim max (R121). -/
theorem State.joinAndEnter_trims {s : State} (h : s.node.halts = false) (hr : s.node.role = .head)
    (hsent : s.closing.sent = []) (hq : s.link.queue = []) (b : BankId) :
    s.joinAndEnter.verdicts.trims.get b =
      if s.config.usable.get b = true then min (s.verdicts.trims.get b) (s.config.banks.get b).trimMax
      else 0 := by
  have hconfig : (s.offer s.joinNotice).config = s.config := by
    rw [State.joinNotice, State.offer_join hq]
    split <;> simp
  rw [State.joinAndEnter_operating h, State.startBlocks_head (by simpa using hr) (by simpa using hsent)]
  rw [State.headBlocks_trim]
  simp [hconfig]

/-- The trim of a bank once a start has ended: held to trim max with the crystal ready already (R121). -/
def State.heldTrim (s : State) (ready : Bool) (b : BankId) (trim : Nat) : Nat :=
  if ready = false then trim
  else if s.config.usable.get b = true then min trim (s.config.banks.get b).trimMax else 0

/-- What step 5 leaves stands at the end of the reset, but for the trims that the list holds. -/
theorem State.startSequence_keeps {s : State} (cause : ResetCause) (inp : StartInputs)
    (hp : s.pins.pwarn = false) :
    (s.startSequence cause inp).memory = (s.afterStepFive cause inp).memory ∧
    (s.startSequence cause inp).config = (s.afterStepFive cause inp).config ∧
    (s.startSequence cause inp).seq = (s.afterStepFive cause inp).seq ∧
    (s.startSequence cause inp).node.halts = (s.afterStepFive cause inp).node.halts ∧
    (s.startSequence cause inp).node.unclean = (s.afterStepFive cause inp).node.unclean ∧
    ((s.afterStepFive cause inp).node.halts = false → inp.roleHigh = false → ∀ b,
      (s.startSequence cause inp).verdicts.trims.get b = (s.afterStepFive cause inp).heldTrim
        inp.crystalReady b ((s.afterStepFive cause inp).verdicts.trims.get b)) := by
  obtain ⟨-, -, -, -, -, -, hclosing, -, -, -, -, -, -, -, hrole, -, -, -, hlink⟩ :=
    State.afterStepFive_blocks s cause inp
  rw [State.startSequence_cases, if_neg (by simp [hp])]
  generalize s.afterStepFive cause inp = x at *
  cases hc : inp.crystalReady
  · exact ⟨rfl, rfl, rfl, rfl, rfl, fun _ _ _ => rfl⟩
  · have hqueue : x.readied.link.queue = [] := by simp [hlink, Link.reset]
    simp only [if_true]
    refine ⟨by simp, ?_, by simp, by simp [Node.halts], by simp, fun hpass hhead b => ?_⟩
    · rw [State.crystalStarts_eq, State.joinAndEnter_config hqueue]
      rfl
    · rw [State.crystalStarts_eq, State.joinAndEnter_trims (by exact hpass)
        (by exact hrole.trans (by simp [hhead])) (by show x.closing.sent = []; rw [hclosing]; rfl) hqueue]
      rfl

theorem PerBank.map_get {α β : Type} (p : PerBank α) (f : α → β) (b : BankId) :
    (p.map f).get b = f (p.get b) := by
  obtain rfl | rfl | rfl | rfl := BankId.eq_cases b <;> rfl

theorem PerBank.ext_get {α : Type} {p q : PerBank α} (h : ∀ b, p.get b = q.get b) : p = q := by
  have h0 := h 0
  have h1 := h 1
  have h2 := h 2
  have h3 := h 3
  cases p
  cases q
  simp_all [PerBank.get]

theorem State.heldTrim_zero (s : State) (ready : Bool) (b : BankId) : s.heldTrim ready b 0 = 0 := by
  simp [State.heldTrim]

/-- Settles O6: step 5 by its three cases, and what stands of it at the end of the reset. -/
theorem persistentAreaAtStart : Obligations.PersistentAreaAtStart := by
  intro s inp hp hsaving
  refine ⟨_, rfl, ?_⟩
  have hcut : s.cutSave 0 = s := by simp [State.cutSave, State.withMemory, Memory.writeAll]
  rw [hcut]
  obtain ⟨hmemory, hconfig, hseq, hhalts, hunclean, htrims⟩ := State.startSequence_keeps .pin inp hp
  obtain ⟨hmem4, hpers4, hlife4, hunclean4, hrole4, -⟩ := State.afterStepFour_parts s .pin inp
  rw [State.afterStepFive_eq] at *
  intro p m held
  have hheld : ∀ b trim, (s.afterStepFour .pin inp).takePersistent.heldTrim inp.crystalReady b trim =
      held b trim := by
    intro b trim
    simp [held, State.heldTrim, hconfig]
  have hpersistent : (s.afterStepFour .pin inp).config.persistent = p := hpers4
  generalize s.afterStepFour .pin inp = x at *
  rw [hmemory, hconfig, hseq, hhalts, hunclean]
  refine ⟨fun h => ?_, fun h hmarker => ?_, fun h hmarker => ?_⟩
  · rw [State.takePersistent_halted (by simpa using h)]
    exact ⟨hmem4, hunclean4, hlife4⟩
  · have hpass : x.node.halts = false := by simpa using h
    obtain ⟨hmem5, hnode5, hconfig5, hhead5⟩ := State.takePersistent_clean hpass (hpersistent ▸ hmarker)
    refine ⟨by rw [hmem5, hmem4], by rw [hnode5, hunclean4], by rw [hconfig5, hpersistent],
      by rw [hconfig5, hpersistent], fun hrole => ?_⟩
    obtain ⟨htrims5, hbank5⟩ := hhead5 (by simpa [hrole] using hrole4)
    refine ⟨fun b => ?_, ?_⟩
    · rw [htrims h hrole, hheld, htrims5, hpersistent, PerBank.map_get]
    · rw [hbank5, x.handedBank_eq.1, hconfig5, hpersistent]
  · have hpass : x.node.halts = false := by simpa using h
    obtain ⟨hmem5, hnode5, hconfig5, hhead5⟩ := State.takePersistent_unclean hpass (hpersistent ▸ hmarker)
    refine ⟨by rw [hmem5, hmem4], by rw [hnode5], by rw [hconfig5, hlife4], fun hrole => ?_⟩
    obtain ⟨htrims5, hbank5⟩ := hhead5 (by simpa [hrole] using hrole4)
    refine ⟨PerBank.ext_get fun b => ?_, ?_⟩
    · rw [htrims h hrole, htrims5, PerBank.get_all_zero, State.heldTrim_zero]
    · rw [hbank5, x.handedBank_eq.2, hconfig5]

/-! ### The bytes of a save -/

/-- A count's four bytes spell it again. -/
theorem count_ofBytes (x : Count) : BitVec.ofNat 32 (natOfBytes (bytesOfCount x)) = x := by
  apply BitVec.eq_of_toNat_eq
  simp [natOfBytes, bytesOfCount]
  omega

/-- The persistent area reads back from the bytes of its save (10.1). -/
theorem readPersistent_bytes (p : Persistent) (rest : List Byte) :
    readPersistent (p.marker :: p.bytes ++ rest) = p := by
  have hfields : readPersistent (p.marker :: p.bytes ++ rest) =
      { marker := p.marker, activeBank := p.activeBank
        trims := p.trims.map fun x => BitVec.ofNat 16 (natOfBytes (bytesOfHalf x))
        lifetime :=
          ⟨BitVec.ofNat 32 (natOfBytes (bytesOfCount p.lifetime.one)),
           BitVec.ofNat 32 (natOfBytes (bytesOfCount p.lifetime.two)),
           BitVec.ofNat 32 (natOfBytes (bytesOfCount p.lifetime.three)),
           BitVec.ofNat 32 (natOfBytes (bytesOfCount p.lifetime.four))⟩ } := rfl
  have hhalf (x : Half) : BitVec.ofNat 16 (natOfBytes (bytesOfHalf x)) = x := half_ofBytes x
  rw [hfields]
  simp [hhalf, count_ofBytes, PerBank.map]

/-- What the memory holds once a save has run to its end (R186). -/
theorem read_saveWrites {m : Memory} (h : Memory.wf m) (p : Persistent) :
    (∀ i, i < 26 → Memory.read (Memory.writeAll m (saveWrites p)) (448 + i) =
      (p.marker :: p.bytes).getD i 0) ∧
    (∀ a, a < 448 ∨ 474 ≤ a → Memory.read (Memory.writeAll m (saveWrites p)) a = Memory.read m a) := by
  have hbody : Memory.wf (Memory.writeAll m (writesFrom 449 p.bytes)) := by
    refine Memory.writeAll_wf h fun w hw => ?_
    have hrange := writesFrom_mem hw
    rw [p.bytes_length] at hrange
    simp only [Config.memoryBytes]
    omega
  have hall : Memory.writeAll m (saveWrites p) =
      Memory.write (Memory.writeAll m (writesFrom 449 p.bytes)) 448 p.marker := by
    rw [saveWrites_eq]
    simp only [Memory.writeAll, List.foldl_append, List.foldl_cons, List.foldl_nil]
  refine ⟨fun i hi => ?_, fun a ha => ?_⟩
  · rw [hall, Memory.read_write hbody]
    cases i with
    | zero => rfl
    | succ i =>
      have hi' : i < p.bytes.length := by rw [p.bytes_length]; omega
      have hnext : 448 + (i + 1) = 449 + i := by omega
      rw [if_neg (by omega), hnext, read_writesFrom h i hi' (by rw [p.bytes_length]; decide),
        List.getD_cons_succ]
  · refine Memory.read_writeAll_other h fun w hw => ?_
    have hrange := saveWrites_mem hw
    simp only [persistentBase, saveLength, Config.memoryBytes] at hrange ⊢
    omega

/-- Settles O12: the save's 26 bytes stand in the area, in the order in which it is read. -/
theorem saveReadsBack : Obligations.SaveReadsBack := by
  intro s t inp p hok hm hs hp
  have hne : s.node.saving ≠ [] := by
    rw [hs]
    simp [saveWrites]
  obtain ⟨hin, hout⟩ := read_saveWrites hok.1 p
  have hwf : Memory.wf (Memory.writeAll s.memory (saveWrites p)) := hs ▸ Memory.writeAll_wf hok.1 hok.2
  have hmem : (s.enter t).finishSave.memory = Memory.writeAll s.memory (saveWrites p) := by
    simp [State.finishSave, hs]
  rw [exec_saveComplete t inp hm hne, if_pos hp]
  refine ⟨_, rfl, ?_, by rwa [hmem], by simp [State.finishSave, State.withConfig, State.withMemory,
    State.withNode]⟩
  have hsplit : Memory.slice (s.enter t).finishSave.memory 448 256 = p.marker :: p.bytes ++
      (List.range 230).map fun i => Memory.read (s.enter t).finishSave.memory (448 + (26 + i)) := by
    rw [Memory.slice_eq (hmem ▸ hwf), show 256 = 26 + 230 from rfl, List.range_add, List.map_append,
      List.map_map]
    congr 1
    refine List.ext_getElem (by simp [p.bytes_length]) fun i hi _ => ?_
    simp only [List.length_map, List.length_range] at hi
    rw [List.getElem_map, List.getElem_range, hmem, hin i hi,
      List.getD_eq_getElem _ _ (by simpa [p.bytes_length])]
  rw [hsplit, readPersistent_bytes]

end Sys2Proof.Machine
end

section
/-! A posting whole (R36 to R38, R58, R87, R123, R176), and the power warning (R186). -/

namespace Sys2Proof.Machine

/-! ### What a posting sends -/

theorem flagByte_bits (b7 b6 b5 b4 b3 b2 b1 b0 : Bool) :
    let f := flagByte b7 b6 b5 b4 b3 b2 b1 b0
    f.getLsbD 7 = b7 ∧ f.getLsbD 6 = b6 ∧ f.getLsbD 5 = b5 ∧ f.getLsbD 4 = b4 ∧ f.getLsbD 3 = b3 ∧
    f.getLsbD 2 = b2 ∧ f.getLsbD 1 = b1 ∧ f.getLsbD 0 = b0 := by
  revert b7 b6 b5 b4 b3 b2 b1 b0
  decide

/-- The detail byte holds both causes whole (section 6.7). -/
theorem sealDetail_toNat (r : Record) :
    (sealDetail r).toNat = r.flushEnd.code * 32 + abortCode r.abortCause * 4 := by
  have hflush : r.flushEnd.code ≤ 5 := by cases r.flushEnd <;> decide
  have habort : abortCode r.abortCause ≤ 4 := by
    rcases r.abortCause with _ | c
    · decide
    · cases c <;> decide
  rw [sealDetail, BitVec.toNat_ofNat]
  omega

theorem CapVerdict.code_lt (v : CapVerdict) : v.code < 16 := by
  cases v <;> decide

/-- The SEAL of a record says what R37 and section 6.7 ask of it. -/
theorem sealOf_says (r : Record) (trimMax : Nat) (signature : Half) :
    SealSays (sealOf r trimMax signature) r trimMax signature := by
  obtain ⟨h7, h6, h5, h4, h3, h2, h1, h0⟩ := flagByte_bits (r.steamResult == .underflush) r.tempClamped
    (r.tempSource == some .default) r.feedbackHeld r.valveFault (r.trimSnapshot == some trimMax)
    (r.dose == 0) false
  exact ⟨rfl, rfl, fun v hv => by simp [sealOf, hv, v.code_lt], h7, h6,
    h5.trans (Bool.eq_iff_iff.mpr (by simp)), h4, h3, h2.trans (Bool.eq_iff_iff.mpr (by simp)),
    h1.trans (Bool.eq_iff_iff.mpr (by simp)), h0, sealDetail_toNat r, rfl, rfl, ⟨rfl, rfl, rfl⟩, rfl⟩

/-! ### The verdict list -/

/-- A revolution already awaited is counted and not added (R123). -/
theorem State.addSummary_known {s : State} {e : Summary}
    (h : e.revolution ∈ s.verdicts.awaited.map (·.revolution)) :
    s.addSummary e = s.countUnanswered 1 := by
  have hany : s.verdicts.awaited.any (fun x => x.revolution == e.revolution) = true := by
    simpa [List.any_eq_true] using h
  simp [State.addSummary, hany]

theorem State.addSummary_room {s : State} {e : Summary}
    (h : e.revolution ∉ s.verdicts.awaited.map (·.revolution)) (hroom : s.verdicts.awaited.length < 32) :
    s.addSummary e = s.withVerdicts { s.verdicts with awaited := s.verdicts.awaited ++ [e] } := by
  have hany : s.verdicts.awaited.any (fun x => x.revolution == e.revolution) = false := by
    simpa [List.any_eq_false] using h
  simp [State.addSummary, hany, awaitedCapacity, Nat.not_le.mpr hroom]

/-- A full list gives up its oldest entry (R123). -/
theorem State.addSummary_full {s : State} {e : Summary}
    (h : e.revolution ∉ s.verdicts.awaited.map (·.revolution)) (hfull : 32 ≤ s.verdicts.awaited.length) :
    s.addSummary e = (s.withVerdicts
      { s.verdicts with awaited := s.verdicts.awaited.tail ++ [e] }).countUnanswered 1 := by
  have hany : s.verdicts.awaited.any (fun x => x.revolution == e.revolution) = false := by
    simpa [List.any_eq_false] using h
  simp [State.addSummary, hany, awaitedCapacity, hfull]

theorem State.addSummary_sealCounts (s : State) (e : Summary) :
    (s.addSummary e).counters.head.sealsGood = s.counters.head.sealsGood ∧
    (s.addSummary e).counters.head.sealsNotGood = s.counters.head.sealsNotGood := by
  unfold State.addSummary State.countUnanswered
  dsimp only
  split_ifs <;> simp

/-! ### Posting -/

/-- With no flush open a posting is the notice, the summary, the counts and the detachment (R37, R38). -/
theorem State.postRecord_eq {s : State} {r : Record} (h : s.seq.record = some r)
    (hf : s.steam.flush ≠ .opened) :
    s.postRecord =
      (((if r.jarPresent then (s.offer (s.noticeOf r)).addSummary (summaryOf r)
        else s.offer (s.noticeOf r)).countPosting r).detach).withSeq
        { s.seq with cycle := .idle, record := none, reachedClosing := false } := by
  have hnone : s.shutRequest .abort = s := by simp [State.shutRequest, hf]
  simp only [State.postRecord, hnone, h]
  cases r.jarPresent <;> simp

/-- A posting of a record changes what R37, R38, R58, R123 and R176 say. -/
theorem State.postRecord_posted {s : State} {r : Record} (h : s.seq.record = some r)
    (hf : s.steam.flush ≠ .opened) (hspindle : s.seq.reachedClosing = true → s.closing.phase = .free) :
    s.postRecord.Posted s r where
  sequencer := by rw [State.postRecord_eq h hf]; rfl
  spindle := by
    rw [if_neg (by rintro ⟨hr, hp⟩; exact hp (hspindle hr))]
    exact (s.postRecord_parts r h hf).2.1
  valve := (s.postRecord_parts r h hf).2.2.1
  void hj := by
    rw [State.postRecord_eq h hf]
    refine ⟨?_, ?_, ?_, ?_⟩ <;>
      simp [hj, State.countPosting, State.detach, State.noticeOf, voidOf]
    cases r.voidReason <;> rfl
  sealed hj := by
    rw [State.postRecord_eq h hf]
    refine ⟨⟨_, sealOf_says r _ _, ?_⟩, fun hg => ?_, fun hg => ?_⟩
    · simp [hj, State.noticeOf]
    · simp [hj, hg, State.countPosting, State.addSummary_sealCounts]
    · simp [hj, hg, State.countPosting, State.addSummary_sealCounts]
  summary v hj hv := by
    have hsummary : summaryOf r = ⟨r.revolution, r.bank, v, r.vPred, r.dose⟩ := by simp [summaryOf, hv]
    have hlist : (s.offer (s.noticeOf r)).verdicts = s.verdicts := by simp
    have hcounts (x : State) : ((x.countPosting r).detach).verdicts = x.verdicts ∧
        ((x.countPosting r).detach).counters.head.verdictsUnanswered =
          x.counters.head.verdictsUnanswered := by
      unfold State.countPosting
      dsimp only
      split_ifs <;> simp [State.detach]
    rw [State.postRecord_eq h hf, if_pos hj, hsummary, State.withSeq_verdicts, State.withSeq_counters,
      (hcounts _).1, (hcounts _).2]
    refine ⟨fun hknown => ?_, fun hnew hroom => ?_, fun hnew hfull => ?_⟩
    · rw [State.addSummary_known (by rwa [hlist])]
      simp [State.countUnanswered]
    · rw [State.addSummary_room (by rwa [hlist]) (by rwa [hlist])]
      simp
    · rw [State.addSummary_full (by rwa [hlist]) (by rwa [hlist])]
      simp [State.countUnanswered]
  rest := by simp

/-- A posting does not read the closing unit. -/
theorem State.Posted.of_closing {u s : State} {r : Record} {c : Closing} (h : u.Posted (s.withClosing c) r)
    (hspindle : u.closing = if s.seq.reachedClosing = true ∧ s.closing.phase ≠ .free then
      { s.closing with
        command := .freewheel, phase := .free, engageAngle := none, slip := 0
        sent := s.closing.sent ++ [.freewheel] } else s.closing) : u.Posted s r where
  sequencer := h.sequencer
  spindle := hspindle
  valve := h.valve
  void hj := by simpa [State.offer_link] using h.void hj
  sealed hj := by simpa [State.offer_link, State.bankOf] using h.sealed hj
  summary := h.summary
  rest := h.rest

/-- The spindle is released and the record posted (R36). -/
theorem State.releaseAndPost_posted {s : State} {r : Record} (h : s.seq.record = some r)
    (hf : s.steam.flush ≠ .opened) : s.releaseAndPost.Posted s r := by
  unfold State.releaseAndPost
  cases hr : s.seq.reachedClosing
  · exact State.postRecord_posted h hf (by simp [hr])
  · have hposted : (s.withClosing s.closing.release).postRecord.Posted _ r :=
      State.postRecord_posted h hf fun _ => by
        by_cases hp : s.closing.phase = .free <;> simp [Closing.release, hp]
    refine hposted.of_closing ?_
    rw [((s.withClosing s.closing.release).postRecord_parts r h hf).2.1]
    by_cases hp : s.closing.phase = .free <;> simp [Closing.release, Closing.inForce, hp, hr]

end Sys2Proof.Machine
end

section
/-! A sample event ahead of a command (R85 to R87, log 12), the moment a command is taken (R15 to R18, log 1,
log 4), and the power warning (R186). -/

namespace Sys2Proof.Machine

/-! ### A sample event ahead of a command -/

/-- Of the sequencer, the closing unit's part of a sample can write the end of an open flush alone (R80). -/
theorem State.Sampled.seq {s u : State} (h : s.Sampled u) :
    u.seq = s.seq ∨ ∃ full, u.seq = { s.seq with
      record := s.seq.record.map fun r => r.flushed .engage full } := by
  obtain ⟨c, n, rfl | rfl⟩ := h
  · exact .inl rfl
  · have hparts := (((s.withClosing c).countHead fun _ => n).shutRequest_parts .engage).1
    split at hparts
    · exact .inr ⟨_, hparts⟩
    · exact .inl hparts

/-- With no flush open the closing unit's part changes the closing unit and the head's counters alone. -/
theorem State.Sampled.unopened {s u : State} (h : s.Sampled u) (hf : s.steam.flush ≠ .opened) :
    ∃ c n, u = (s.withClosing c).countHead fun _ => n := by
  obtain ⟨c, n, rfl | rfl⟩ := h
  · exact ⟨c, n, rfl⟩
  · exact ⟨c, n, by simp [State.shutRequest, hf]⟩

theorem State.sampledAt_sampled (s : State) (t : Time) (ahead : Option SampleEvent) :
    (s.enter t).Sampled (s.sampledAt t ahead) := by
  cases ahead with
  | none => exact ⟨(s.enter t).closing, (s.enter t).counters.head, .inl rfl⟩
  | some e => exact (s.enter t).unitTakes_sampled e

@[simp] theorem State.sampledAt_frame (s : State) (t : Time) (ahead : Option SampleEvent) :
    (s.sampledAt t ahead).timeBase = t ∧ (s.sampledAt t ahead).pins = s.pins ∧
    (s.sampledAt t ahead).node = s.node ∧ (s.sampledAt t ahead).memory = s.memory ∧
    (s.sampledAt t ahead).config.header = s.config.header ∧
    (s.sampledAt t ahead).config.banks = s.config.banks ∧
    (s.sampledAt t ahead).tracker = (s.enter t).tracker ∧
    (s.sampledAt t ahead).verdicts = s.verdicts ∧ (s.sampledAt t ahead).transit = s.transit ∧
    (s.sampledAt t ahead).reject = s.reject := by
  cases ahead <;> simp [State.sampledAt]

@[simp] theorem State.sampledAt_seq (s : State) (t : Time) (ahead : Option SampleEvent) :
    (s.sampledAt t ahead).seq.cycle = s.seq.cycle ∧
    (s.sampledAt t ahead).seq.capGate = s.seq.capGate ∧
    (s.sampledAt t ahead).seq.activeBank = s.seq.activeBank ∧
    (s.sampledAt t ahead).seq.reachedClosing = s.seq.reachedClosing := by
  rcases (s.sampledAt_sampled t ahead).seq with h | ⟨full, h⟩ <;> simp [h]

/-- A sample leaves the cap verdict and the jar of an open record. -/
theorem State.sampledAt_record {s : State} {r : Record} (t : Time) (ahead : Option SampleEvent)
    (h : s.seq.record = some r) : ∃ r', (s.sampledAt t ahead).seq.record = some r' ∧
      r'.capVerdict = r.capVerdict ∧ r'.jarPresent = r.jarPresent := by
  rcases (s.sampledAt_sampled t ahead).seq with hseq | ⟨full, hseq⟩
  · exact ⟨r, by simp [hseq, h], rfl, rfl⟩
  · exact ⟨r.flushed .engage full, by simp [hseq, h], rfl, rfl⟩

/-- With no flush open a sample leaves the sequencer and the steam unit. -/
theorem State.sampledAt_unopened {s : State} (t : Time) (ahead : Option SampleEvent)
    (h : s.steam.flush ≠ .opened) :
    (s.sampledAt t ahead).seq = s.seq ∧ (s.sampledAt t ahead).steam = s.steam := by
  obtain ⟨c, n, hu⟩ := (s.sampledAt_sampled t ahead).unopened (by simpa using h)
  simp [hu]

/-- A report changes nothing outside CLOSING (R33). -/
theorem State.takeReport_idle {s : State} (p : ClosingReport) (h : s.seq.cycle.isClosing = false) :
    s.takeReport p = s := by
  simp [State.takeReport, h]

/-- A command that leaves CLOSING leaves the report of a sample ahead of it unapplied (R85, log 12). -/
theorem State.afterSample_unapplied {s : State} {t : Time} {ahead : Option SampleEvent}
    {f : State → State} (h : (f (s.sampledAt t ahead)).seq.cycle.isClosing = false) :
    (s.enter t).afterSample ahead f = f (s.sampledAt t ahead) := by
  cases ahead with
  | none => rfl
  | some e => exact State.takeReport_idle _ h

/-! ### The moment a command is taken -/

/-- The phase is held at or above where it stood, and within a pocket (R15, log 4). -/
theorem Tracker.phaseAt_between (tr : Tracker) (t : Time) (h : tr.phase ≤ 255) :
    tr.phase ≤ tr.phaseAt t ∧ tr.phaseAt t ≤ 255 := by
  unfold Tracker.phaseAt
  dsimp only
  split
  · split <;> omega
  · split <;> omega
  · exact ⟨le_refl _, h⟩

/-- The boundaries come to between two positions are those of the filter (R17). -/
theorem Header.reachedBetween_eq_nil {h : Header} {old new : Nat} :
    h.reachedBetween old new = [] ↔ ∀ b ∈ h.boundaries, ¬ (old < b.2 ∧ b.2 ≤ new) := by
  simp [Header.reachedBetween, List.filter_eq_nil_iff]

/-- An ordered header lists its boundaries by their positions (R174). -/
theorem Header.boundaries_sorted {h : Header} (ho : h.ordered = true) :
    h.boundaries.Pairwise fun a b => a.2 ≤ b.2 := by
  simp only [Header.ordered, decide_eq_true_eq] at ho
  simp [Header.boundaries]
  omega

/-- What holding the phase makes of it (log 4): with no boundary in the way it is the interpolation, else it
stands just below the first one due. -/
theorem State.heldPhase_cases (s : State) (t : Time) :
    let base := pocketOffset s.config.header.n s.own s.tracker.pocket * 256
    (s.tracker.indexKnown = false ∨
        s.config.header.reachedBetween (base + s.tracker.phase) (base + s.tracker.phaseAt t) = []) ∧
      s.heldPhase t = s.tracker.phaseAt t ∨
    ∃ b rest, s.tracker.indexKnown = true ∧
      s.config.header.boundaries.filter
        (fun b => decide (base + s.tracker.phase < b.2 ∧ b.2 ≤ base + s.tracker.phaseAt t)) = b :: rest ∧
      s.heldPhase t = b.2 - base - 1 := by
  intro base
  unfold State.heldPhase
  cases hk : s.tracker.indexKnown
  · exact .inl ⟨.inl rfl, rfl⟩
  · simp only [if_true]
    split
    next hdue => exact .inl ⟨.inr (congrArg (List.map Prod.fst) hdue), rfl⟩
    next b rest hdue => exact .inr ⟨b, rest, trivial, hdue, rfl⟩

/-- The held phase does not fall and stays within the pocket. -/
theorem State.heldPhase_between (s : State) (t : Time) (h : s.tracker.phase ≤ 255) :
    s.tracker.phase ≤ s.heldPhase t ∧ s.heldPhase t ≤ 255 := by
  obtain ⟨hlow, hhigh⟩ := s.tracker.phaseAt_between t h
  rcases s.heldPhase_cases t with ⟨-, hp⟩ | ⟨b, rest, -, hdue, hp⟩
  · rw [hp]
    exact ⟨hlow, hhigh⟩
  · have hb := List.of_mem_filter (hdue ▸ List.mem_cons_self : b ∈ List.filter _ _)
    simp only [decide_eq_true_eq] at hb
    omega

/-- The held phase passes no boundary that has not been handed over (log 4). -/
theorem State.heldPhase_passes_none {s : State} (t : Time) (ho : s.config.header.ordered = true)
    (hk : s.tracker.indexKnown = true) :
    let base := pocketOffset s.config.header.n s.own s.tracker.pocket * 256
    s.config.header.reachedBetween (base + s.tracker.phase) (base + s.heldPhase t) = [] := by
  intro base
  rcases s.heldPhase_cases t with ⟨hnone, hp⟩ | ⟨b, rest, -, hdue, hp⟩
  · rw [hp]
    exact hnone.resolve_left (by simp [hk])
  · have hb := List.of_mem_filter (hdue ▸ List.mem_cons_self : b ∈ List.filter _ _)
    simp only [decide_eq_true_eq] at hb
    have hfirst : ∀ c ∈ b :: rest, b.2 ≤ c.2 := by
      have hsorted := (Header.boundaries_sorted ho).filter
        (fun b => decide (base + s.tracker.phase < b.2 ∧ b.2 ≤ base + s.tracker.phaseAt t))
      rw [hdue, List.pairwise_cons] at hsorted
      simpa using hsorted.1
    rw [Header.reachedBetween_eq_nil, hp]
    intro c hc hpassed
    have hdueC : c ∈ b :: rest := hdue ▸ List.mem_filter.mpr ⟨hc, by simp only [decide_eq_true_eq]; omega⟩
    have hle := hfirst c hdueC
    omega

/-- A command is taken at `t`: the time base, the drive-line view and the phase (log 1). -/
theorem State.enter_eq (s : State) (t : Time) : s.enter t = { s with
    timeBase := t, closing := { s.closing with sent := [] }
    tracker := { s.tracker with phase := (s.enter t).tracker.phase } } := by
  unfold State.enter
  dsimp only
  split <;> rfl

theorem Tracker.phaseAt_interpolates {tr : Tracker} {t t0 : Time} {e : Nat} (hl : tr.lock ≠ .stopped)
    (he : tr.pitch = some e) (h0 : tr.tLast = some t0) (ht : 0 ≤ since t t0)
    (hp : tr.phase ≤ min 255 ((since t t0).toNat * 256 / e)) :
    tr.phaseAt t = min 255 ((since t t0).toNat * 256 / e) := by
  have hpast : ¬ since t t0 < 0 := by omega
  cases hlock : tr.lock <;> simp_all [Tracker.phaseAt]

theorem Tracker.phaseAt_stands {tr : Tracker} (t : Time)
    (h : tr.lock = .stopped ∨ tr.pitch = none ∨ tr.tLast = none) : tr.phaseAt t = tr.phase := by
  unfold Tracker.phaseAt
  split <;> simp_all

/-- A phase change hands over the boundaries it has come to, in their order (R17). -/
theorem State.takePhase_reaches {s : State} {t : Time} {bs : List Boundary} (cap : Bool)
    (h : s.phaseReaches t bs) (ahead : Option SampleEvent) :
    (s.sampledAt t ahead).takePhase cap = bs.foldl State.handBoundary (s.sampledPhase t cap ahead) := by
  obtain ⟨hr, hk, rfl⟩ := h
  have hruns : (s.sampledAt t ahead).headRuns = true := by simpa [State.headRuns] using hr
  have hpins : ((s.sampledAt t ahead).withPins { s.pins with capPresent := cap }).headRuns = true := hruns
  have hown : ((s.sampledAt t ahead).withPins { s.pins with capPresent := cap }).own = s.own := by
    simp [State.own]
  unfold State.takePhase
  simp only [State.sampledAt_frame, hpins, if_true]
  unfold State.phaseMoves State.handBoundaries
  simp only [hown, State.withPins_tracker, State.withPins_config, State.withPins_timeBase,
    State.sampledAt_frame, State.enter_tracker_frame, hk, if_true]
  congr 1
  simp [State.sampledPhase, State.atPhase, State.withPins, State.withTracker, hk]

/-- Settles O3: the moment of a command by its phase, and the two halves of a sample ahead of it. -/
theorem takingACommand : Obligations.TakingACommand := by
  intro s t
  refine ⟨s.enter_eq t, fun hr => by simp [State.enter_tracker, hr], fun hr => ?_,
    fun e t0 hl he h0 ht hp => Tracker.phaseAt_interpolates hl he h0 ht hp,
    Tracker.phaseAt_stands t, fun cap bs h => ?_, ?_, fun report => State.takeReport_idle report⟩
  · have hphase : (s.enter t).tracker.phase = s.heldPhase t := by simp [State.enter_tracker, hr]
    rw [hphase]
    refine ⟨s.heldPhase_between t, State.heldPhase_passes_none t, fun hfree => ?_⟩
    rcases s.heldPhase_cases t with ⟨-, hp⟩ | ⟨b, rest, hk, hdue, -⟩
    · exact hp
    · have hnone := hfree.resolve_left (by simp [hk])
      rw [Header.reachedBetween, hdue] at hnone
      simp at hnone
  · exact congrArg _ (State.takePhase_reaches cap h none)
  · rintro jar cap e c f (⟨rfl, rfl⟩ | ⟨rfl, rfl⟩ | ⟨rfl, rfl⟩ | ⟨rfl, rfl⟩ | ⟨rfl, rfl⟩) <;>
      exact ⟨rfl, rfl⟩

end Sys2Proof.Machine
end

section
/-! The power warning by node state (R42, R67, R88, R134, R154, R172, R186). -/

namespace Sys2Proof.Machine

/-! ### What a warned head saves -/

theorem State.postRecord_activeBank (s : State) : s.postRecord.seq.activeBank = s.seq.activeBank := by
  have hshut : (s.shutRequest .abort).seq.activeBank = s.seq.activeBank := by
    rw [(s.shutRequest_parts .abort).1]
    split <;> rfl
  unfold State.postRecord
  dsimp only
  split
  · simpa using hshut
  · split <;> simpa using hshut

theorem State.releaseAndPost_activeBank (s : State) :
    s.releaseAndPost.seq.activeBank = s.seq.activeBank := by
  unfold State.releaseAndPost
  split <;> simp [State.postRecord_activeBank]

theorem State.abortPower_activeBank (s : State) : s.abortPower.seq.activeBank = s.seq.activeBank := by
  have habort : (s.abort .power).seq.activeBank = s.seq.activeBank := by rw [(s.abort_parts .power).1]
  unfold State.abortPower
  split
  · rfl
  · rw [State.releaseAndPost_activeBank]
    split
    · exact habort
    · rfl
  · rw [State.releaseAndPost_activeBank, habort]

/-- A head at work acts on the warning, then saves what it held (R186). -/
theorem State.takeAssertion_head {s : State} (hr : s.headRuns = true) (hp : s.pins.pwarn = false) :
    let p := (s.withPins { s.pins with pwarn := true }).abortPower
    s.takeAssertion = { p with
      seq := { p.seq with capGate := false }
      steam := { p.steam with commandOpen := false }
      node := { s.node with
        mode := .saved, awaitingCrystal := false
        saving := saveWrites
          { marker := 0xA5#8, activeBank := bankByte s.seq.activeBank,
            trims := s.verdicts.trims.map (BitVec.ofNat 16), lifetime := p.config.lifetime } } } := by
  intro p
  simp only [State.headRuns, Bool.and_eq_true, beq_iff_eq] at hr
  obtain ⟨hm, hrole⟩ := hr
  have hnode : p.node = s.node := by simp [p]
  have hbank : p.seq.activeBank = s.seq.activeBank := State.abortPower_activeBank _
  have htrims : p.verdicts.trims = s.verdicts.trims := (State.abortPower_trims _).2.1
  have hsave : (s.withPins { s.pins with pwarn := true }).warnHead.beginSave = s.takeAssertion := by
    simp [State.takeAssertion, State.takeWarning, hp, hm, hrole]
  have hpower : (s.withPins { s.pins with pwarn := true }).abortPower = p := rfl
  clear_value p
  rw [← hsave]
  simp [State.warnHead, hpower, State.beginSave, State.withSeq, State.withSteam, State.withNode,
    State.savedImage, hnode, hrole, hbank, htrims, cleanMarker]

theorem State.releaseAndPost_idle (s : State) : s.releaseAndPost.seq.cycle = .idle := by
  unfold State.releaseAndPost State.postRecord
  dsimp only
  split <;> rfl

/-- The warning leaves no cycle at work (R42). -/
theorem State.abortPower_idle (s : State) : s.abortPower.seq.cycle = .idle := by
  unfold State.abortPower
  split
  · assumption
  · exact State.releaseAndPost_idle _
  · exact State.releaseAndPost_idle _

/-- Settles O10: the cycle is posted by its state, and the report of a sample ahead finds it over. -/
theorem warningSavesAHead : Obligations.WarningSavesAHead := by
  intro s t ahead hr hp b
  have hhead := State.takeAssertion_head (s := s.sampledAt t ahead) (by simpa [State.headRuns] using hr)
    (by simpa using hp)
  have hb : (s.sampledAt t ahead).withPins { s.pins with pwarn := true } = b := rfl
  simp only [State.sampledAt_frame, State.sampledAt_seq, hb] at hhead
  have hcycle : b.seq.cycle = s.seq.cycle := by simp [b]
  refine ⟨b.abortPower, ?_, fun hidle => ?_, fun r hrec hwork => ?_,
    fun r hrec hended hverdict hflush _ => ?_⟩
  · have hdone : (s.sampledAt t ahead).takeAssertion.seq.cycle.isClosing = false := by
      rw [hhead]
      simp [b.abortPower_idle, CycleState.isClosing]
    exact congrArg _ ((State.afterSample_unapplied hdone).trans hhead)
  · simp [State.abortPower, hcycle, hidle]
  · obtain ⟨r', hr', hverdict, -⟩ := State.sampledAt_record t ahead hrec
    have habort := b.abort_parts .power
    have haborts : b.abortPower = (b.abort .power).releaseAndPost := by
      rcases hwork with ⟨hidle, hended⟩ | ⟨hended, hv⟩
      · unfold State.abortPower
        rw [hcycle]
        split
        next h => exact absurd h hidle
        next h => exact absurd h hended
        · rfl
      · have halready : b.alreadyAborted = true := by simp [State.alreadyAborted, b, hr', hverdict, hv]
        simp [State.abortPower, hcycle, hended, halready]
    have hopen : ∃ r'', (b.abort .power).seq.record = some r'' := by
      rw [habort.1]
      simp [b, hr']
    obtain ⟨r'', hr''⟩ := hopen
    rw [haborts]
    exact ⟨b.abort .power, r'', State.abort_aborted b .power, by simp, hr'',
      State.releaseAndPost_posted hr'' habort.2.2.2.2.2⟩
  · obtain ⟨hseq, hsteam⟩ := State.sampledAt_unopened t ahead hflush
    have hrec' : b.seq.record = some r := by simp [b, hseq, hrec]
    have hstays : b.alreadyAborted = false := by simp [State.alreadyAborted, hrec', hverdict]
    have hposts : b.abortPower = b.releaseAndPost := by
      simp [State.abortPower, hcycle, hended, hstays]
    rw [hposts]
    exact State.releaseAndPost_posted hrec' (by simpa [b, hsteam] using hflush)

/-! ### Elsewhere -/

theorem exec_powerWarningAsserted (s : State) (t : Time) :
    exec (.powerWarningAsserted ⟨t, none⟩) s = .next (s.enter t).takeAssertion := rfl

/-- The assertion of the warning, by node state (R186). -/
theorem State.takeAssertion_negated {s : State} (hp : s.pins.pwarn = false) :
    s.takeAssertion = (s.withPins { s.pins with pwarn := true }).takeWarning := by
  simp [State.takeAssertion, hp]

/-- Settles O11: the assertion by its node states. -/
theorem warningElsewhere : Obligations.WarningElsewhere := by
  intro s t
  simp only [exec_powerWarningAsserted]
  refine ⟨fun hp => ?_, fun hp hr => ?_, fun hp hm => ?_, fun hp hm hrole => ?_, fun hp hm => ?_⟩
  · simp [State.takeAssertion, hp]
  · simp only [State.checkRuns, Bool.and_eq_true, beq_iff_eq] at hr
    rw [State.takeAssertion_negated (by simpa using hp)]
    simp [State.takeWarning, hr.1, hr.2, State.warnCheck, State.beginSave, State.savedImage, cleanMarker,
      State.withPins, State.withReject, State.withNode]
  · rw [State.takeAssertion_negated (by simpa using hp)]
    simp [State.takeWarning, hm, State.saveNothing, State.withPins, State.withNode]
  · rw [State.takeAssertion_negated (by simpa using hp)]
    by_cases htaken : s.node.awaitingCrystal = true ∧ s.node.halts = false ∧ s.node.unclean = false
    · simp [State.takeWarning, hm, hrole, State.markerTaken, htaken, State.beginSave, State.savedImage,
        cleanMarker, State.withPins, State.withNode]
    · have hmarker : ((s.enter t).withPins { s.pins with pwarn := true }).markerTaken = false := by
        simpa [State.markerTaken, and_assoc] using htaken
      have hnothing : ((s.enter t).withPins { s.pins with pwarn := true }).takeWarning =
          ((s.enter t).withPins { s.pins with pwarn := true }).saveNothing := by
        simp [State.takeWarning, hm, hmarker]
      simp only [State.enter_frame, hnothing]
      simp [htaken, State.saveNothing, State.withPins, State.withNode]
  · rw [State.takeAssertion_negated (by simpa using hp)]
    simp [State.takeWarning, hm, State.withPins]

end Sys2Proof.Machine
end

section
/-! The turret and run lines at the tracker (R2, R4, R5, R11 to R14), with the aborts they ask for (R39 to
R41). -/

namespace Sys2Proof.Machine

/-! ### Aborts under another tracker -/

/-- A shut request does not read the tracker. -/
theorem State.FlushShut.of_tracker {u s : State} (h : u.FlushShut s) (a b : Tracker) :
    (u.withTracker a).FlushShut (s.withTracker b) where
  unopened := h.unopened
  ended := h.ended
  valveOpen hf hv := by
    obtain ⟨hlink, hsteam⟩ := h.valveOpen hf hv
    exact ⟨hlink.trans (by simp [State.offer_link]), hsteam⟩
  valveOpening := h.valveOpening
  otherwise := h.otherwise

/-- An abort does not read the tracker. -/
theorem State.Aborted.of_tracker {u s : State} {c : AbortCause} (h : u.Aborted s c) (a b : Tracker) :
    (u.withTracker a).Aborted (s.withTracker b) c where
  sequencer := h.sequencer
  spindle := h.spindle
  flush := h.flush.of_tracker a b
  counts := h.counts
  rest := h.rest

theorem State.Aborted.of_withTracker {u s : State} {c : AbortCause} {b : Tracker}
    (h : u.Aborted (s.withTracker b) c) : u.Aborted s c :=
  h.of_tracker u.tracker s.tracker

/-- A report that comes after an abort finds no cycle in CLOSING (R39, R85). -/
theorem State.abort_unreported (s : State) (c : AbortCause) : (s.abort c).seq.cycle.isClosing = false := by
  rw [(s.abort_parts c).1]
  rfl

/-! ### Turret pulses by their class (R2) -/

/-- The head with a sample taken ahead of a turret pulse, at the sensor levels of the pulse. -/
def State.pulsed (s : State) (t : Time) (ahead : Option SampleEvent) (jar cap : Bool) : State :=
  { s.sampledAt t ahead with pins := { s.pins with jarPresent := jar, capPresent := cap } }

@[simp] theorem State.pulsed_frame (s : State) (t : Time) (ahead : Option SampleEvent) (jar cap : Bool) :
    (s.pulsed t ahead jar cap).node = s.node ∧
    (s.pulsed t ahead jar cap).tracker = (s.enter t).tracker ∧
    (s.pulsed t ahead jar cap).seq.cycle = s.seq.cycle := by
  simp [State.pulsed]

theorem State.pulsed_none (s : State) (t : Time) (jar cap : Bool) :
    s.pulsed t none jar cap = s.atPulse t jar cap := rfl

theorem State.classify_close {s : State} {t : Time} (h : s.closePulseAt t) :
    (s.enter t).tracker.classify t = if s.tracker.markTaken then .extraClose else .indexMark := by
  obtain ⟨l, hl, hclose⟩ := h
  have hlast : (s.enter t).tracker.lastPulse = some l := by simpa using hl
  unfold Tracker.classify
  simp only [hlast]
  rw [if_pos (by exact hclose)]
  simp

theorem State.classify_counted {s : State} {t : Time} (h : ¬ s.closePulseAt t) :
    (s.enter t).tracker.classify t = .counted := by
  unfold Tracker.classify
  split
  · rfl
  next l hl =>
    split
    next hclose => exact absurd ⟨l, by simpa using hl, hclose⟩ h
    · rfl

/-- A pulse at a head, by its class. -/
theorem State.takePulse_head {s : State} (hr : s.headRuns = true) (t : Time) (ahead : Option SampleEvent)
    (jar cap : Bool) :
    ((s.enter t).tracker.classify t = .indexMark →
      (s.sampledAt t ahead).takePulse t jar cap = (s.pulsed t ahead jar cap).indexMark) ∧
    ((s.enter t).tracker.classify t = .extraClose →
      (s.sampledAt t ahead).takePulse t jar cap =
        (s.pulsed t ahead jar cap).countHead fun c => { c with extraMark := c.extraMark + 1 }) ∧
    ((s.enter t).tracker.classify t = .counted →
      (s.sampledAt t ahead).takePulse t jar cap = (s.pulsed t ahead jar cap).countedPulse t) := by
  have hx : (s.sampledAt t ahead).withPins
      { (s.sampledAt t ahead).pins with jarPresent := jar, capPresent := cap } =
      s.pulsed t ahead jar cap := by
    simp [State.pulsed, State.withPins]
  have hruns : (s.pulsed t ahead jar cap).headRuns = true := by simpa [State.headRuns] using hr
  unfold State.takePulse
  rw [hx]
  simp only [hruns, if_true, State.pulsed_frame]
  refine ⟨fun h => ?_, fun h => ?_, fun h => ?_⟩ <;> rw [h]

/-- Settles O14: a close pulse is an index mark the first time, and counted as extra after that. -/
theorem closePulses : Obligations.ClosePulses := by
  intro s t jar cap hr hclose w
  have hpulse : exec (.turretPulse ⟨t, none⟩ jar cap) s = .next ((s.sampledAt t none).takePulse t jar cap) :=
    rfl
  obtain ⟨hmark, hextra, -⟩ := State.takePulse_head hr t none jar cap
  rw [State.classify_close hclose, State.pulsed_none] at hmark hextra
  rw [hpulse]
  have hw : w.counters = s.counters ∧ w.tracker.indexKnown = s.tracker.indexKnown ∧
      w.tracker.pocket = s.tracker.pocket ∧ w.tracker.revolution = s.tracker.revolution := by
    simp [w, State.atPulse]
  obtain ⟨hcounters, hknown, hpocket, hrevolution⟩ := hw
  refine ⟨fun hm => ?_, fun hm hk => ?_, fun hm hk hp => ?_⟩
  · rw [hextra (by simp [hm])]
    change Host.Outcome.next (w.countHead _) = _
    simp [State.countHead, State.withCounters, hcounters]
  · rw [hmark (by simp [hm])]
    change Host.Outcome.next w.indexMark = _
    simp [State.indexMark, State.withTracker, hknown, hk]
  · rw [hmark (by simp [hm])]
    change Host.Outcome.next w.indexMark = _
    simp [State.indexMark, State.withTracker, hknown, hk, hpocket, hp, hrevolution]

/-- An index mark at a wrong pocket corrects the counter, counts the mismatch and asks for the abort (R5). -/
theorem State.indexMark_mismatch {s : State} (hk : s.tracker.indexKnown = true)
    (hp : s.tracker.pocket ≠ 0) :
    s.indexMark = (({ s with
      tracker := { s.tracker with markTaken := true, revolution := s.tracker.revolution + 1 }
      counters := { s.counters with
        head := { s.counters.head with indexMismatch := s.counters.head.indexMismatch + 1 } } } :
      State).abortIndex).withTracker
        { s.tracker with markTaken := true, revolution := s.tracker.revolution + 1, pocket := 0 } := by
  simp only [State.indexMark, hk, if_true]
  rw [if_neg (by simpa using hp)]
  simp [State.withTracker, State.countHead, State.withCounters]

/-- Settles O15: the abort is that of R39, whatever the tracker shows. -/
theorem indexMismatchAborts : Obligations.IndexMismatchAborts := by
  intro s t jar cap ahead hr hclose hm hk hp mismatched
  have hmark (ahead : Option SampleEvent) : (s.sampledAt t ahead).takePulse t jar cap =
      (s.pulsed t ahead jar cap).indexMark :=
    (State.takePulse_head hr t ahead jar cap).1 (by simp [State.classify_close hclose, hm])
  have hwrong (ahead : Option SampleEvent) := State.indexMark_mismatch (s := s.pulsed t ahead jar cap)
    (by simpa using hk) (by simpa using hp)
  refine ⟨fun hidle => ?_, fun hopen => ?_⟩
  · refine congrArg Host.Outcome.next ((hmark none).trans ((hwrong none).trans ?_))
    simp [State.abortIndex, hidle, State.pulsed_none, State.atPulse, State.withTracker, mismatched]
  · have habort : (s.sampledAt t ahead).takePulse t jar cap = _ :=
      (hmark ahead).trans ((hwrong ahead).trans (by rw [State.abortIndex, if_neg (by simpa using hopen)]))
    have hover : ((s.sampledAt t ahead).takePulse t jar cap).seq.cycle.isClosing = false := by
      rw [habort]
      exact State.abort_unreported _ _
    refine ⟨_, congrArg Host.Outcome.next
      (State.afterSample_unapplied (f := fun s => s.takePulse t jar cap) hover), ?_, ?_⟩
    · simp [habort, mismatched]
    · rw [habort]
      exact (State.abort_aborted _ .index).of_tracker _ _

end Sys2Proof.Machine
end

section
/-! The pitch-loss deadline (R11, R12) and the run line (R13, R14), with the aborts they ask for (R40). -/

namespace Sys2Proof.Machine

/-- A request to abort a cycle at work does nothing to any other (R40). -/
theorem State.abortWorking_eq (s : State) (c : AbortCause) :
    s.abortWorking c = if s.seq.cycle.working then s.abort c else s := rfl

/-! ### The pitch-loss deadline -/

/-- A pitch loss with a cycle at work is its abort, whatever the tracker shows (R12, R40). -/
theorem State.pitchLoss_eq (s : State) : s.pitchLoss =
    ({ s with
      tracker := { s.tracker with lock := .acquire, inWindow := 0, miss := 0 }
      counters := { s.counters with
        head := { s.counters.head with pitchLoss := s.counters.head.pitchLoss + 1 } } } :
      State).abortWorking .pitch := rfl

theorem Tracker.lossDeadline_locked {tr : Tracker} {e : Nat} {t0 : Time} (hl : tr.lock = .locked)
    (he : tr.pitch = some e) (h0 : tr.tLast = some t0) :
    tr.lossDeadline = some (t0 + BitVec.ofNat 32 (4 * e)) := by
  simp [Tracker.lossDeadline, hl, he, h0]

/-- The deadline of a locked head is a pitch loss once it is reached (R11). -/
theorem State.takeLossDeadline_locked {s : State} {e : Nat} {t0 : Time} (hr : s.headRuns = true)
    (hl : s.tracker.lock = .locked) (he : s.tracker.pitch = some e) (h0 : s.tracker.tLast = some t0) :
    s.takeLossDeadline =
      if 0 ≤ since s.timeBase (t0 + BitVec.ofNat 32 (4 * e)) then s.pitchLoss else s := by
  simp only [State.takeLossDeadline, hr, if_true, Tracker.lossDeadline_locked hl he h0, reached,
    decide_eq_true_eq]

/-- Settles O18: the deadline is a pitch loss or nothing, and the report of a sample ahead finds a working
cycle over. -/
theorem pitchLossDeadline : Obligations.PitchLossDeadline := by
  intro s t t0 e ahead hr hl he h0 due lost
  have hdeadline (ahead : Option SampleEvent) := State.takeLossDeadline_locked (s := s.sampledAt t ahead)
    (e := e) (t0 := t0) (by simpa [State.headRuns] using hr) (by simpa using hl) (by simpa using he)
    (by simpa using h0)
  simp only [State.sampledAt_frame] at hdeadline
  refine ⟨fun hdue => ?_, fun hdue hidle => ?_, fun hdue hwork => ?_⟩
  · exact congrArg Host.Outcome.next ((hdeadline none).trans (if_neg hdue))
  · refine congrArg Host.Outcome.next ((hdeadline none).trans ((if_pos hdue).trans ?_))
    rw [State.pitchLoss_eq, State.abortWorking_eq, if_neg (by simpa [State.sampledAt] using hidle)]
    rfl
  · have habort : (s.sampledAt t ahead).takeLossDeadline = _ :=
      (hdeadline ahead).trans ((if_pos hdue).trans (by
        rw [State.pitchLoss_eq, State.abortWorking_eq, if_pos (by simpa using hwork)]))
    have hover : (s.sampledAt t ahead).takeLossDeadline.seq.cycle.isClosing = false := by
      rw [habort]
      exact State.abort_unreported _ _
    refine ⟨_, congrArg Host.Outcome.next (State.afterSample_unapplied hover), ?_, ?_⟩
    · simp [habort, lost]
    · rw [habort]
      simpa [lost] using State.abort_aborted _ .pitch

/-! ### The run line -/

/-- A fall of the run line at a head (R13, R40). -/
theorem State.takeRunFall_head {s : State} (hr : s.headRuns = true) :
    s.takeRunFall = ({ s with
      pins := { s.pins with run := false }
      tracker := s.tracker.stop } : State).abortWorking .runOff := by
  have hruns : (s.withPins { s.pins with run := false }).headRuns = true := hr
  simp only [State.takeRunFall, hruns, if_true]
  rfl

theorem Tracker.rise_eq (tr : Tracker) : tr.rise =
    if tr.lock = .stopped then { tr with lock := .acquire, inWindow := 0, miss := 0 } else tr := by
  unfold Tracker.rise
  cases h : tr.lock <;> simp

/-- Settles O19: the tracker stops, and the report of a sample ahead finds a working cycle over. -/
theorem runLineChanges : Obligations.RunLineChanges := by
  intro s t ahead hr w fallen stopped
  have hstop : (s.enter t).tracker.stop = stopped := by
    rw [Tracker.stop_eq]
    simp [stopped, w]
  have hfall (ahead : Option SampleEvent) : (s.sampledAt t ahead).takeRunFall =
      ((fallen (s.sampledAt t ahead)).withTracker stopped).abortWorking .runOff :=
    (State.takeRunFall_head (by simpa [State.headRuns] using hr)).trans
      (by simp [fallen, hstop, State.withTracker])
  refine ⟨fun hidle => ?_, fun hwork => ?_, ?_⟩
  · refine congrArg Host.Outcome.next ((hfall none).trans ?_)
    rw [State.abortWorking_eq, if_neg (by simpa [fallen, State.sampledAt] using hidle)]
    rfl
  · have habort : (s.sampledAt t ahead).takeRunFall = _ :=
      (hfall ahead).trans (by rw [State.abortWorking_eq, if_pos (by simpa [fallen] using hwork)])
    have hover : (s.sampledAt t ahead).takeRunFall.seq.cycle.isClosing = false := by
      rw [habort]
      exact State.abort_unreported _ _
    refine ⟨_, congrArg Host.Outcome.next (State.afterSample_unapplied hover), ?_, ?_⟩
    · rw [habort]
      simp
    · rw [habort]
      exact (State.abort_aborted _ .runOff).of_withTracker
  · have hexec : exec (.runLineRise t) s = execRunLineRise t s := rfl
    have hruns : ((s.enter t).withPins { s.pins with run := true }).headRuns = true := by
      simpa [State.headRuns] using hr
    rw [hexec, execRunLineRise]
    simp only [State.enter_frame, hruns, if_true, State.withPins_tracker, Tracker.rise_eq]
    simp [State.withTracker, State.withPins, w]

end Sys2Proof.Machine
end

section
/-! Counted pulses (R3, R7 to R10, R12, R18): the tracker after the pulse, and the boundaries that its jump
reaches. -/

namespace Sys2Proof.Machine

/-! ### The boundaries of a jump -/

/-- The boundaries that a jump reaches at the end of its pocket are those of the pocket, and INFEED at the
head's own (R18). -/
theorem Header.reachedByPulse_eq (h : Header) (k p : Nat) :
    h.reachedByPulse k p = h.reachedBetween (k * 256 + p) ((k + 1) * 256) ++
      if k + 1 = h.n then [.infeed] else [] := by
  unfold Header.reachedByPulse
  split
  next hk => rw [hk]
  · simp

/-- The tracker right after a counted pulse, before its period is measured (R3). -/
def Tracker.pulsed (tr : Tracker) (n : Nat) (t : Time) : Tracker :=
  { tr with pocket := (tr.pocket + 1) % n, lastPulse := some t, markTaken := false }

/-- The head once a counted pulse has been measured, before the boundaries: the phase is 0 (R3). -/
def State.measuredPulse (s : State) (t : Time) (jar cap : Bool) : State :=
  let x := ((s.atPulse t jar cap).withTracker ((s.enter t).tracker.pulsed s.config.header.n t)).measure t
  x.withTracker { x.tracker with phase := 0 }

/-- A counted pulse: the period is measured, then the boundaries are handed over. -/
theorem State.countedPulse_eq (s : State) (t : Time) :
    s.countedPulse t = (if s.tracker.indexKnown then
        s.config.header.reachedByPulse (pocketOffset s.config.header.n s.own s.tracker.pocket) s.tracker.phase
      else []).foldl State.handBoundary
        (let x := (s.withTracker (s.tracker.pulsed s.config.header.n t)).measure t
        x.withTracker { x.tracker with phase := 0 }) := rfl

/-- A counted pulse at a head: the boundaries of the jump are handed over once the period is measured. -/
theorem exec_turretPulse_counted {s : State} {t : Time} {jar cap : Bool} (hr : s.headRuns = true)
    (hc : ¬ s.closePulseAt t) :
    exec (.turretPulse ⟨t, none⟩ jar cap) s = .next
      ((s.pulseBoundaries t).foldl State.handBoundary (s.measuredPulse t jar cap)) := by
  have hcounted := (State.takePulse_head hr t none jar cap).2.2 (State.classify_counted hc)
  refine congrArg Host.Outcome.next (hcounted.trans ?_)
  have hconfig : (s.atPulse t jar cap).config = s.config := by simp [State.atPulse]
  have hown : (s.atPulse t jar cap).own = s.own := by simp [State.atPulse, State.own]
  have htracker : (s.atPulse t jar cap).tracker = (s.enter t).tracker := rfl
  rw [State.pulsed_none, State.countedPulse_eq, hconfig, hown, htracker, Header.reachedByPulse_eq]
  unfold State.pulseBoundaries State.measuredPulse
  cases hk : s.tracker.indexKnown <;> simp [hk]

/-! ### Periods in ACQUIRE and STOPPED -/

/-- What the measured period makes of a tracker that is not locked (R8, R9). -/
def Tracker.measured (tr : Tracker) (t : Time) : Tracker :=
  match tr.lock with
  | .stopped => tr
  | _ => { (match tr.tLast with
      | none => tr
      | some t0 => tr.acquireUpdate (since t t0)) with tLast := some t }

/-- Measuring an unlocked tracker touches the tracker alone. -/
theorem State.measure_unlocked {s : State} (t : Time) (h : s.tracker.lock ≠ .locked) :
    s.measure t = s.withTracker (s.tracker.measured t) := by
  unfold State.measure Tracker.measured
  cases hl : s.tracker.lock
  case locked => exact absurd hl h
  case stopped => simp [State.withTracker]
  case acquire =>
    cases h0 : s.tracker.tLast with
    | none => simp
    | some t0 => simp [State.takePeriod, hl, State.withTracker]

/-- The period is valid and within a quarter of the estimate (R7). -/
theorem periodInWindow_iff (e : Nat) (m : Int) : periodInWindow e m = true ↔ inWindowOf e m := by
  simp [periodInWindow, periodValid_iff, and_assoc]

/-- The pitch estimate and the lock in ACQUIRE (R8, R9). -/
theorem Tracker.acquireUpdate_cases (tr : Tracker) (m : Int) :
    let valid := 50000 ≤ m ∧ m ≤ 4000000
    (tr.pitch = none → ¬ valid → tr.acquireUpdate m = tr) ∧
    (tr.pitch = none → valid → tr.acquireUpdate m = { tr with pitch := some m.toNat }) ∧
    (∀ e, tr.pitch = some e → ¬ valid → tr.acquireUpdate m = { tr with inWindow := 0 }) ∧
    (∀ e, tr.pitch = some e → valid →
      let moved := { tr with pitch := some ((e : Int) + Int.tdiv (m - e) 4).toNat }
      (¬ inWindowOf e m → tr.acquireUpdate m = { moved with inWindow := 0 }) ∧
      (inWindowOf e m → tr.inWindow + 1 < 8 →
        tr.acquireUpdate m = { moved with inWindow := tr.inWindow + 1 }) ∧
      (inWindowOf e m → 8 ≤ tr.inWindow + 1 →
        tr.acquireUpdate m = { moved with lock := .locked, inWindow := 0, miss := 0 })) := by
  intro valid
  have hvalid : periodValid m = true ↔ valid := periodValid_iff m
  refine ⟨fun he hv => ?_, fun he hv => ?_, fun e he hv => ?_, fun e he hv => ?_⟩
  · simp [Tracker.acquireUpdate, he, mt hvalid.mp hv]
  · simp [Tracker.acquireUpdate, he, hvalid.mpr hv]
  · simp [Tracker.acquireUpdate, he, mt hvalid.mp hv]
  · refine ⟨fun hw => ?_, fun hw hlow => ?_, fun hw hhigh => ?_⟩
    · simp [Tracker.acquireUpdate, he, hvalid.mpr hv, mt (periodInWindow_iff e m).mp hw, movePitch]
    · simp [Tracker.acquireUpdate, he, hvalid.mpr hv, (periodInWindow_iff e m).mpr hw, movePitch, lockCount,
        Nat.not_le.mpr hlow]
    · simp [Tracker.acquireUpdate, he, hvalid.mpr hv, (periodInWindow_iff e m).mpr hw, movePitch, lockCount,
        hhigh]

/-- A head that is not locked loses no pitch. -/
theorem State.pulseLoses_unlocked {s : State} (t : Time) (h : s.tracker.lock ≠ .locked) :
    s.pulseLoses t = false := by
  unfold State.pulseLoses
  split
  next hl _ => exact absurd hl h
  · rfl

/-- Settles O16: the tracker by its state and estimate, and the boundaries of the jump after it. -/
theorem countedPulseUnlocked : Obligations.CountedPulseUnlocked := by
  intro s t jar cap hr hc w tr
  refine ⟨_, exec_turretPulse_counted hr hc, ?_⟩
  have hmeasure (hl : s.tracker.lock ≠ .locked) := State.measure_unlocked t
    (s := (s.atPulse t jar cap).withTracker ((s.enter t).tracker.pulsed s.config.header.n t))
    (by simpa [Tracker.pulsed] using hl)
  unfold State.measuredPulse
  set u := (s.pulseBoundaries t).foldl State.handBoundary _ with hu
  have htracker (hl : s.tracker.lock ≠ .locked) : u.tracker =
      { ((s.enter t).tracker.pulsed s.config.header.n t).measured t with phase := 0 } := by
    rw [hu, hmeasure hl]
    exact (State.handBoundaries_frame _ _).2.2.2.2.2.2.2.2.2.2.1
  have hafter (hl : s.tracker.lock ≠ .locked) :
      u = (s.pulseBoundaries t).foldl State.handBoundary (s.atCounted t jar cap u.tracker) := by
    rw [htracker hl, hu, hmeasure hl]
    simp [State.atCounted, State.pulseLoses_unlocked t hl, State.atPulse, State.withTracker]
  have hpulsed : (s.enter t).tracker.pulsed s.config.header.n t =
      { tr with phase := (s.enter t).tracker.phase } := by
    simp [Tracker.pulsed, tr, w, State.atPulse]
  have hpitch : tr.pitch = s.tracker.pitch := by simp [tr, w, State.atPulse]
  have hwindow : tr.inWindow = s.tracker.inWindow := by simp [tr, w, State.atPulse]
  refine ⟨fun hl hk => ?_, hafter, fun hl => ?_, fun hl h0 => ?_, fun t0 hl h0 => ?_⟩
  · refine (hafter hl).trans ?_
    simp [State.pulseBoundaries, hk, State.atCounted, State.pulseLoses_unlocked t hl, w, State.atPulse]
  · rw [htracker (by simp [hl])]
    simp [Tracker.measured, Tracker.pulsed, hl, tr, w, State.atPulse]
  · rw [htracker (by simp [hl])]
    simp [Tracker.measured, Tracker.pulsed, hl, h0, tr, w, State.atPulse]
  · have hperiod : u.tracker =
        { ({ tr with phase := (s.enter t).tracker.phase } : Tracker).acquireUpdate (since t t0)
          with tLast := some t, phase := 0 } := by
      rw [htracker (by simp [hl]), ← hpulsed]
      simp [Tracker.measured, Tracker.pulsed, hl, h0]
    obtain ⟨hunknown, hfirst, hinvalid, hmoves⟩ :=
      Tracker.acquireUpdate_cases { tr with phase := (s.enter t).tracker.phase } (since t t0)
    rw [hperiod]
    refine ⟨fun he hv => ?_, fun he hv => ?_, fun e he hv => ?_, fun e he hv => ?_⟩
    · rw [hunknown (hpitch.trans he) hv]
    · rw [hfirst (hpitch.trans he) hv]
    · rw [hinvalid e (hpitch.trans he) hv]
    · obtain ⟨hout, hin, hlock⟩ := hmoves e (hpitch.trans he) hv
      refine ⟨fun hw => ?_, fun hw hn => ?_, fun hw hn => ?_⟩
      · rw [hout hw]
      · rw [hin hw (hwindow ▸ hn), ← hwindow]
      · rw [hlock hw (hwindow ▸ hn)]

end Sys2Proof.Machine
end

section
/-! A counted pulse in LOCKED (R10, R12, R18, R40). -/

namespace Sys2Proof.Machine

/-! ### The count of pitch losses through the boundaries -/

/-- The number of pitch losses counted so far. -/
def State.lossCount (s : State) : Count := s.counters.head.pitchLoss

@[simp] theorem State.withSeq_lossCount (s : State) (q : Sequencer) :
    (s.withSeq q).lossCount = s.lossCount := rfl

@[simp] theorem State.withSteam_lossCount (s : State) (st : Steam) :
    (s.withSteam st).lossCount = s.lossCount := rfl

@[simp] theorem State.withClosing_lossCount (s : State) (c : Closing) :
    (s.withClosing c).lossCount = s.lossCount := rfl

@[simp] theorem State.offer_lossCount (s : State) (n : Notice) : (s.offer n).lossCount = s.lossCount := by
  simp [State.lossCount]

@[simp] theorem State.shutRequest_lossCount (s : State) (c : FlushEnd) :
    (s.shutRequest c).lossCount = s.lossCount := by
  unfold State.lossCount
  rw [(s.shutRequest_parts c).2.2.2.2.1]
  split <;> rfl

@[simp] theorem State.abort_lossCount (s : State) (c : AbortCause) :
    (s.abort c).lossCount = s.lossCount := by
  unfold State.lossCount
  rw [(s.abort_parts c).2.2.2.2.1]

theorem State.addSummary_lossCount (s : State) (e : Summary) : (s.addSummary e).lossCount = s.lossCount := by
  unfold State.lossCount State.addSummary State.countUnanswered
  dsimp only
  split_ifs <;> simp

theorem State.countPosting_lossCount (s : State) (r : Record) :
    (s.countPosting r).lossCount = s.lossCount := by
  unfold State.lossCount State.countPosting
  dsimp only
  split_ifs <;> simp

@[simp] theorem State.postRecord_lossCount (s : State) : s.postRecord.lossCount = s.lossCount := by
  unfold State.postRecord State.detach
  dsimp only
  split
  · simp
  · split <;> simp [State.countPosting_lossCount, State.addSummary_lossCount]

@[simp] theorem State.releaseAndPost_lossCount (s : State) : s.releaseAndPost.lossCount = s.lossCount := by
  unfold State.releaseAndPost State.onClosing
  split <;> simp

@[simp] theorem State.openRequest_lossCount (s : State) (target : Nat) :
    (s.openRequest target).lossCount = s.lossCount := by
  have hclose (x : State) (c : FlushEnd) : (x.closeFlush c).lossCount = x.lossCount := by
    unfold State.lossCount
    rw [(x.closeFlush_parts c).2.2.2.2.2.1]
    split <;> rfl
  unfold State.openRequest State.enterOpen State.onRecord
  dsimp only
  repeat' split
  all_goals simp [hclose]

@[simp] theorem State.takePendingBank_lossCount (s : State) :
    s.takePendingBank.lossCount = s.lossCount := by
  unfold State.takePendingBank
  split <;> simp

@[simp] theorem State.takePendingLock_lossCount (s : State) :
    s.takePendingLock.lossCount = s.lossCount := by
  have hclear (x : State) : x.clearFaultShut.lossCount = x.lossCount := by
    unfold State.clearFaultShut State.clearFault
    split <;> simp
  unfold State.takePendingLock
  split <;> simp [hclear]

@[simp] theorem State.endCycle_lossCount (s : State) (v : CapVerdict) :
    (s.endCycle v).lossCount = s.lossCount := rfl

@[simp] theorem State.endNoJar_lossCount (s : State) (why : VoidReason) :
    (s.endNoJar why).lossCount = s.lossCount := rfl

@[simp] theorem State.preventStart_lossCount (s : State) : s.preventStart.lossCount = s.lossCount := by
  have hself (x : State) : x.setSelfLock.lossCount = x.lossCount := by
    unfold State.setSelfLock
    split <;> simp
  unfold State.preventStart
  split_ifs <;> simp [hself]

theorem State.atInfeed_lossCount (s : State) : s.atInfeed.lossCount = s.lossCount := by
  have hleft : s.postLeftOver.lossCount = s.lossCount := by
    unfold State.postLeftOver State.onRecord
    split <;> simp
  unfold State.atInfeed State.openRecord
  dsimp only
  split <;> simp [hleft]

theorem State.atFlushStart_lossCount (s : State) : s.atFlushStart.lossCount = s.lossCount := by
  have htemperature : s.takeTemperature.lossCount = s.lossCount := by
    unfold State.takeTemperature State.onRecord
    split <;> simp
  unfold State.atFlushStart State.onRecord
  split_ifs <;> simp [htemperature]

/-- No boundary counts a pitch loss. -/
theorem State.handBoundary_lossCount (s : State) (b : Boundary) :
    (s.handBoundary b).lossCount = s.lossCount := by
  cases b <;> unfold State.handBoundary
  case infeed => exact s.atInfeed_lossCount
  case pick =>
    unfold State.atPick
    dsimp only
    split_ifs <;> simp
  case flushStart => exact s.atFlushStart_lossCount
  case applyStart =>
    unfold State.atApplyStart State.onClosing
    split_ifs <;> simp
  case flushEnd =>
    unfold State.atFlushEnd
    split_ifs <;> simp
  case applyEnd =>
    unfold State.atApplyEnd State.onClosing
    dsimp only
    split <;> simp
  case release =>
    unfold State.atRelease State.makeGood State.onRecord
    dsimp only
    split <;> simp

theorem State.foldl_handBoundary_lossCount (bs : List Boundary) (s : State) :
    (bs.foldl State.handBoundary s).lossCount = s.lossCount := by
  induction bs generalizing s with
  | nil => rfl
  | cons b bs ih => rw [List.foldl_cons, ih, State.handBoundary_lossCount]

/-! ### Periods in LOCKED -/

/-- A measured period of a locked tracker (R10). -/
theorem State.lockedUpdate_cases {s : State} {e : Nat} (he : s.tracker.pitch.getD 0 = e) (m : Int) :
    (inWindowOf e m → s.lockedUpdate m = s.withTracker
      { s.tracker with pitch := some ((e : Int) + Int.tdiv (m - e) 8).toNat, miss := 0 }) ∧
    (¬ inWindowOf e m → s.tracker.miss < 2 →
      s.lockedUpdate m = s.withTracker { s.tracker with miss := s.tracker.miss + 1 }) ∧
    (¬ inWindowOf e m → 2 ≤ s.tracker.miss → s.lockedUpdate m = s.pitchLoss) := by
  refine ⟨fun hw => ?_, fun hw hm => ?_, fun hw hm => ?_⟩
  · simp [State.lockedUpdate, he, (periodInWindow_iff e m).mpr hw, movePitch]
  · simp [State.lockedUpdate, he, mt (periodInWindow_iff e m).mp hw, missLimit, Nat.not_le.mpr hm]
  · simp [State.lockedUpdate, he, mt (periodInWindow_iff e m).mp hw, missLimit, hm]

theorem State.measure_locked {s : State} {t0 : Time} (t : Time) (hl : s.tracker.lock = .locked)
    (h0 : s.tracker.tLast = some t0) :
    s.measure t = (s.lockedUpdate (since t t0)).withTracker
      { (s.lockedUpdate (since t t0)).tracker with tLast := some t } := by
  simp [State.measure, State.takePeriod, hl, h0]

/-- The third miss in a row is a pitch loss (R10). -/
theorem State.pulseLoses_iff {s : State} {t t0 : Time} {e : Nat} (hl : s.tracker.lock = .locked)
    (he : s.tracker.pitch.getD 0 = e) (h0 : s.tracker.tLast = some t0) :
    s.pulseLoses t = true ↔ 2 ≤ s.tracker.miss ∧ ¬ inWindowOf e (since t t0) := by
  simp only [State.pulseLoses, hl, he, h0, decide_eq_true_eq]

/-- The head right after a counted pulse in LOCKED, before any abort and any boundary (R3, R10, R12). -/
theorem State.atCounted_kept {s : State} {t : Time} {jar cap : Bool} (tr : Tracker)
    (h : s.pulseLoses t = false) :
    s.atCounted t jar cap tr = (s.atPulse t jar cap).withTracker tr := by
  simp [State.atCounted, h, State.withTracker, State.atPulse]

/-- The tracker after a counted pulse in LOCKED, but for what its period changes (R3). -/
def State.lockedTracker (s : State) (t : Time) : Tracker :=
  { (s.enter t).tracker with
    pocket := (s.tracker.pocket + 1) % s.config.header.n, lastPulse := some t, markTaken := false
    phase := 0, tLast := some t }

/-- What the measured period of a counted pulse in LOCKED does (R10, R12, R40). -/
theorem State.measuredPulse_cases {s : State} {t t0 : Time} {e : Nat} (jar cap : Bool)
    (hl : s.tracker.lock = .locked) (he : s.tracker.pitch.getD 0 = e) (h0 : s.tracker.tLast = some t0) :
    let m := since t t0
    let tr := s.lockedTracker t
    let lost := { tr with lock := .acquire, inWindow := 0, miss := 0 }
    (inWindowOf e m → s.measuredPulse t jar cap = (s.atPulse t jar cap).withTracker
      { tr with pitch := some ((e : Int) + Int.tdiv (m - e) 8).toNat, miss := 0 }) ∧
    (¬ inWindowOf e m → s.tracker.miss < 2 → s.measuredPulse t jar cap =
      (s.atPulse t jar cap).withTracker { tr with miss := s.tracker.miss + 1 }) ∧
    (¬ inWindowOf e m → 2 ≤ s.tracker.miss → s.seq.cycle.working = false →
      s.measuredPulse t jar cap = s.atCounted t jar cap lost) ∧
    (¬ inWindowOf e m → 2 ≤ s.tracker.miss → s.seq.cycle.working = true →
      (s.measuredPulse t jar cap).Aborted (s.atCounted t jar cap lost) .pitch ∧
      (s.measuredPulse t jar cap).tracker = lost) := by
  intro m tr lost
  have hloses := State.pulseLoses_iff (t := t) hl he h0
  have hmiss : ((s.enter t).tracker.pulsed s.config.header.n t).miss = s.tracker.miss := by
    simp [Tracker.pulsed]
  have hmeasure := State.measure_locked
    (s := (s.atPulse t jar cap).withTracker ((s.enter t).tracker.pulsed s.config.header.n t))
    t (by simpa [Tracker.pulsed] using hl) (by simpa [Tracker.pulsed] using h0)
  obtain ⟨hin, hout, hlost⟩ := State.lockedUpdate_cases (e := e)
    (s := (s.atPulse t jar cap).withTracker ((s.enter t).tracker.pulsed s.config.header.n t))
    (by simp [Tracker.pulsed, he]) m
  unfold State.measuredPulse
  dsimp only
  rw [hmeasure]
  refine ⟨fun hw => ?_, fun hw hm => ?_, fun hw hm hidle => ?_, fun hw hm hwork => ?_⟩
  · rw [hin hw]
    simp [State.withTracker, tr, State.lockedTracker, Tracker.pulsed]
  · rw [hout hw (by simpa [Tracker.pulsed] using hm)]
    simp [State.withTracker, tr, State.lockedTracker, Tracker.pulsed]
  · rw [hlost hw (by simpa [Tracker.pulsed] using hm), State.pitchLoss_eq, State.abortWorking_eq,
      if_neg (by simpa [State.atPulse] using hidle)]
    simp [State.withTracker, lost, tr, State.lockedTracker, Tracker.pulsed, State.atCounted,
      hloses.mpr ⟨hm, hw⟩, State.atPulse]
  · rw [hlost hw (by simpa [Tracker.pulsed] using hm), State.pitchLoss_eq, State.abortWorking_eq,
      if_pos (by simpa [State.atPulse] using hwork)]
    refine ⟨?_, ?_⟩
    · have hbase : s.atCounted t jar cap lost = ({ s.atPulse t jar cap with
          counters := { (s.atPulse t jar cap).counters with
            head := { (s.atPulse t jar cap).counters.head with
              pitchLoss := (s.atPulse t jar cap).counters.head.pitchLoss + 1 } } } : State).withTracker lost := by
        simp [State.atCounted, hloses.mpr ⟨hm, hw⟩, State.atPulse, State.withTracker]
      rw [hbase]
      exact ((State.abort_aborted _ .pitch).of_tracker _ _).of_tracker _ _
    · simp [lost, tr, State.lockedTracker, Tracker.pulsed]

/-- With no cycle for a pitch loss to abort, a counted pulse changes the tracker and its count alone. -/
theorem State.measuredPulse_idle {s : State} (t : Time) (jar cap : Bool)
    (hidle : s.seq.cycle.working = false) :
    s.measuredPulse t jar cap = s.atCounted t jar cap (s.measuredPulse t jar cap).tracker := by
  by_cases hl : s.tracker.lock = .locked
  · cases h0 : s.tracker.tLast with
    | none =>
      have hkept : s.pulseLoses t = false := by simp [State.pulseLoses, hl, h0]
      rw [State.atCounted_kept _ hkept]
      simp [State.measuredPulse, State.measure, Tracker.pulsed, hl, h0, State.withTracker, State.atPulse]
    | some t0 =>
      obtain ⟨hin, hout, hlost, -⟩ := State.measuredPulse_cases (t := t) jar cap hl rfl h0
      have hloses := State.pulseLoses_iff (t := t) hl rfl h0
      by_cases hw : inWindowOf (s.tracker.pitch.getD 0) (since t t0)
      · rw [State.atCounted_kept _ (Bool.eq_false_iff.mpr fun h => (hloses.mp h).2 hw), hin hw]
        rfl
      · by_cases hm : 2 ≤ s.tracker.miss
        · rw [hlost hw hm hidle]
          rfl
        · rw [State.atCounted_kept _ (Bool.eq_false_iff.mpr fun h => hm (hloses.mp h).1),
            hout hw (by omega)]
          rfl
  · have hmeasure := State.measure_unlocked t
      (s := (s.atPulse t jar cap).withTracker ((s.enter t).tracker.pulsed s.config.header.n t))
      (by simpa [Tracker.pulsed] using hl)
    rw [State.atCounted_kept _ (State.pulseLoses_unlocked t hl)]
    unfold State.measuredPulse
    rw [hmeasure]
    rfl

/-- A measured period leaves the revolution and the knowledge of the index (R8 to R10). -/
theorem State.takePeriod_tracker (s : State) (m : Int) :
    (s.takePeriod m).tracker.revolution = s.tracker.revolution ∧
    (s.takePeriod m).tracker.indexKnown = s.tracker.indexKnown := by
  have hacquire : (s.tracker.acquireUpdate m).revolution = s.tracker.revolution ∧
      (s.tracker.acquireUpdate m).indexKnown = s.tracker.indexKnown := by
    unfold Tracker.acquireUpdate
    cases s.tracker.pitch <;> dsimp only <;> split_ifs <;> exact ⟨rfl, rfl⟩
  have hlocked : (s.lockedUpdate m).tracker.revolution = s.tracker.revolution ∧
      (s.lockedUpdate m).tracker.indexKnown = s.tracker.indexKnown := by
    unfold State.lockedUpdate
    dsimp only
    split_ifs <;> simp [State.pitchLoss_eq]
  unfold State.takePeriod
  cases s.tracker.lock
  · exact hacquire
  · exact hlocked
  · exact ⟨rfl, rfl⟩

/-- A counted pulse leaves the revolution and the knowledge of the index (R3, R5). -/
theorem State.measuredPulse_tracker (s : State) (t : Time) (jar cap : Bool) :
    (s.measuredPulse t jar cap).tracker.revolution = s.tracker.revolution ∧
    (s.measuredPulse t jar cap).tracker.indexKnown = s.tracker.indexKnown := by
  have hmeasure (x : State) : (x.measure t).tracker.revolution = x.tracker.revolution ∧
      (x.measure t).tracker.indexKnown = x.tracker.indexKnown := by
    unfold State.measure
    cases x.tracker.lock <;> cases x.tracker.tLast <;>
      simp [State.takePeriod_tracker]
  obtain ⟨hrevolution, hknown⟩ :=
    hmeasure ((s.atPulse t jar cap).withTracker ((s.enter t).tracker.pulsed s.config.header.n t))
  exact ⟨hrevolution.trans (by simp [Tracker.pulsed]), hknown.trans (by simp [Tracker.pulsed])⟩

/-- Settles O17: the period by its window and the misses before it, then the abort and the boundaries. -/
theorem countedPulseLocked : Obligations.CountedPulseLocked := by
  intro s t t0 e jar cap hr hc hl he h0 w m tr
  have hexec := exec_turretPulse_counted (jar := jar) (cap := cap) hr hc
  obtain ⟨hin, hout, hidle, hwork⟩ := State.measuredPulse_cases (t := t) (e := e) jar cap hl (by simp [he]) h0
  have hloses := State.pulseLoses_iff (t := t) (e := e) hl (by simp [he]) h0
  have hkept (h : inWindowOf e m ∨ s.tracker.miss < 2) : s.pulseLoses t = false :=
    Bool.eq_false_iff.mpr fun hp => by
      obtain ⟨hm, hw⟩ := hloses.mp hp
      exact h.elim hw (by omega)
  have htr : s.lockedTracker t = tr := by simp [State.lockedTracker, tr, w, State.atPulse]
  rw [htr] at hin hout hidle hwork
  refine ⟨_, hexec, ?_⟩
  set u := (s.pulseBoundaries t).foldl State.handBoundary (s.measuredPulse t jar cap) with hu
  have htracker : u.tracker = (s.measuredPulse t jar cap).tracker :=
    (State.handBoundaries_frame _ _).2.2.2.2.2.2.2.2.2.2.1
  have hbefore (h : inWindowOf e m ∨ s.tracker.miss < 2) :
      s.measuredPulse t jar cap = w.withTracker u.tracker := by
    rw [htracker]
    by_cases hw : inWindowOf e m
    · rw [hin hw]
      rfl
    · rw [hout hw (h.resolve_left hw)]
      rfl
  have hlost (hw : ¬ inWindowOf e m) (hm : 2 ≤ s.tracker.miss) :
      u.tracker = { tr with lock := .acquire, inWindow := 0, miss := 0 } ∧
      u.lossCount = s.lossCount + 1 := by
    rw [htracker, hu, State.foldl_handBoundary_lossCount]
    cases hworking : s.seq.cycle.working
    · rw [hidle hw hm hworking]
      simp [State.atCounted, State.lossCount, hloses.mpr ⟨hm, hw⟩]
    · obtain ⟨habort, htr'⟩ := hwork hw hm hworking
      refine ⟨htr', ?_⟩
      rw [State.lossCount, habort.counts.1]
      simp [State.atCounted, State.lossCount, hloses.mpr ⟨hm, hw⟩]
  refine ⟨fun hw => ?_, fun hw hm => ?_, fun hw hm => (hlost hw hm).1, fun h hk => ?_, fun h => ?_,
    fun hw hm hworking => ?_, fun hw hm => (hlost hw hm).2⟩
  · rw [htracker, hin hw]
    rfl
  · rw [htracker, hout hw hm]
    rfl
  · have hnone : s.pulseBoundaries t = [] := by simp [State.pulseBoundaries, hk]
    rw [← State.withTracker, ← hbefore h, hu, hnone]
    rfl
  · refine hu.trans (congrArg (fun x : State => (s.pulseBoundaries t).foldl State.handBoundary x) ?_)
    by_cases hcase : inWindowOf e m ∨ s.tracker.miss < 2
    · rw [State.atCounted_kept _ (hkept hcase)]
      exact hbefore hcase
    · obtain ⟨hw, hm⟩ := not_or.mp hcase
      have hworking : s.seq.cycle.working = false := (h.resolve_left hw).resolve_left hm
      rw [(hlost hw (by omega)).1]
      exact hidle hw (by omega) hworking
  · obtain ⟨habort, htr'⟩ := hwork hw hm hworking
    exact ⟨_, by rw [(hlost hw hm).1]; exact habort, htracker.symm, hu⟩

end Sys2Proof.Machine
end

section
/-! INFEED (R20 to R26, R51): what waits is taken up, a record is opened, and the prevent-start checks
decide. -/

namespace Sys2Proof.Machine

/-! ### What is taken up -/

/-- What the counts of a head and the lifetime counters hold is left alone (R38, R176). -/
structure State.CountsKept (u s : State) : Prop where
  head : u.counters.head = s.counters.head
  check : u.counters.check = s.counters.check
  refused : u.counters.refused = s.counters.refused
  lifetime : u.config.lifetime = s.config.lifetime

theorem State.CountsKept.rfl {s : State} : s.CountsKept s := ⟨Eq.refl _, Eq.refl _, Eq.refl _, Eq.refl _⟩

theorem State.CountsKept.trans {u v s : State} (h : u.CountsKept v) (h' : v.CountsKept s) :
    u.CountsKept s :=
  ⟨h.head.trans h'.head, h.check.trans h'.check, h.refused.trans h'.refused, h.lifetime.trans h'.lifetime⟩

theorem State.CountsKept.withSeq {u s : State} (h : u.CountsKept s) (q : Sequencer) :
    (u.withSeq q).CountsKept s := ⟨h.head, h.check, h.refused, h.lifetime⟩

theorem State.offer_countsKept (s : State) (n : Notice) : (s.offer n).CountsKept s := by
  constructor <;> simp

/-- A pending bank becomes the active one, with its notice (R21). -/
theorem State.takePendingBank_parts (s : State) :
    let banks : List Notice := match s.seq.pendingBank with
      | some b => [.state (.bankChanged b)]
      | none => []
    s.takePendingBank.seq = { s.seq with
      activeBank := s.seq.pendingBank.getD s.seq.activeBank, pendingBank := none } ∧
    s.takePendingBank.steam = s.steam ∧
    s.takePendingBank.link = banks.foldl Link.offered s.link ∧ s.takePendingBank.CountsKept s := by
  unfold State.takePendingBank
  cases hb : s.seq.pendingBank with
  | none =>
    refine ⟨?_, rfl, rfl, .rfl⟩
    dsimp only [Option.getD_none]
    rw [← hb]
  | some b =>
    exact ⟨by simp, by simp, by simp [State.offer_link],
      (State.offer_countsKept _ _).trans ⟨rfl, rfl, rfl, rfl⟩⟩

/-- The STATE notice of a lock status (R22). -/
theorem State.lockNotice_eq (s : State) : s.lockNotice =
    if s.seq.commandedLock = true ∧ s.seq.selfLock = true then .state (.headLocked 3)
    else if s.seq.selfLock = true then .state (.headLocked 2)
    else if s.seq.commandedLock = true then .state (.headLocked 1)
    else .state .headUnlocked := by
  unfold State.lockNotice lockDetail
  cases s.seq.commandedLock <;> cases s.seq.selfLock <;> simp

/-- A RESTORE clears a FAULT_SHUT with CLEARED (R51). -/
theorem State.clearFaultShut_parts (s : State) :
    s.clearFaultShut.steam = (if s.steam.valve = .faultShut then { s.steam with
      valve := .shut, ticks := none, attached := false
      settle := if s.steam.commandOpen = s.pins.valveOpen then none
        else some (s.steam.settle.getD s.timeBase) } else s.steam) ∧
    s.clearFaultShut.link = (if s.steam.valve = .faultShut then [Notice.valveFault .cleared]
      else []).foldl Link.offered s.link ∧ s.clearFaultShut.CountsKept s := by
  unfold State.clearFaultShut State.clearFault
  by_cases hv : s.steam.valve = .faultShut
  · refine ⟨?_, by simp [hv, State.offer_link], ?_⟩
    · simp [hv, State.settleNow, State.valveDisagrees]
    · simp only [hv, beq_self_eq_true, if_true]
      exact (State.offer_countsKept _ _).trans ⟨rfl, rfl, rfl, rfl⟩
  · simp only [hv, beq_iff_eq, if_false]
    exact ⟨trivial, rfl, .rfl⟩

/-- The pending lock action takes effect, with its notices (R22, R51). -/
theorem State.takePendingLock_parts (s : State) :
    let restores := s.seq.pendingLock = .restore
    let clears := restores ∧ s.steam.valve = .faultShut
    let commanded := if s.seq.pendingLock = .lock then true
      else if restores then false else s.seq.commandedLock
    let self := if restores ∧ s.steam.valve ≠ .faultOpen then false else s.seq.selfLock
    let cleared : List Notice := if clears then [.valveFault .cleared] else []
    let status : List Notice :=
      if s.seq.pendingLock = .none then []
      else if commanded = true ∧ self = true then [.state (.headLocked 3)]
      else if self = true then [.state (.headLocked 2)]
      else if commanded = true then [.state (.headLocked 1)]
      else [.state .headUnlocked]
    s.takePendingLock.seq = { s.seq with
      pendingLock := .none, commandedLock := commanded, selfLock := self } ∧
    s.takePendingLock.steam = (if clears then { s.steam with
      valve := .shut, ticks := none, attached := false
      settle := if s.steam.commandOpen = s.pins.valveOpen then none
        else some (s.steam.settle.getD s.timeBase) } else s.steam) ∧
    s.takePendingLock.link = (cleared ++ status).foldl Link.offered s.link ∧
    s.takePendingLock.CountsKept s := by
  unfold State.takePendingLock
  cases hp : s.seq.pendingLock
  case none =>
    refine ⟨?_, by simp, by simp, .rfl⟩
    simp only [reduceCtorEq, false_and, if_false]
    rw [← hp]
  case lock =>
    refine ⟨by simp, by simp, ?_, (State.offer_countsKept _ _).trans ⟨rfl, rfl, rfl, rfl⟩⟩
    simp only [State.offer_link, State.lockNotice_eq]
    cases s.seq.selfLock <;> simp
  case restore =>
    dsimp only
    obtain ⟨x, hx⟩ : ∃ x, x = s.withSeq { s.seq with commandedLock := false, pendingLock := .none } :=
      ⟨_, rfl⟩
    have hseq : x.seq = { s.seq with commandedLock := false, pendingLock := .none } := by rw [hx]; rfl
    have hsteam : x.steam = s.steam := by rw [hx]; rfl
    have hlink : x.link = s.link := by rw [hx]; rfl
    have hpins : x.pins = s.pins ∧ x.timeBase = s.timeBase := by rw [hx]; exact ⟨rfl, rfl⟩
    obtain ⟨hsteam', hlink', hcounts⟩ := x.clearFaultShut_parts
    rw [hsteam, hpins.1, hpins.2] at hsteam'
    rw [hsteam, hlink] at hlink'
    have hvalve : x.clearFaultShut.steam.valve = .faultOpen ↔ s.steam.valve = .faultOpen := by
      rw [hsteam']
      by_cases hv : s.steam.valve = .faultShut <;> simp [hv]
    have hkept : x.CountsKept s := by
      rw [hx]
      exact ⟨rfl, rfl, rfl, rfl⟩
    rw [← hx]
    refine ⟨?_, ?_, ?_, (State.offer_countsKept _ _).trans ((hcounts.trans hkept).withSeq _)⟩
    · simp [hvalve, hseq]
    · by_cases hv : s.steam.valve = .faultShut <;> simpa [hv] using hsteam'
    · simp only [State.offer_link, State.withSeq_link, hlink', State.lockNotice_eq, List.foldl_append]
      by_cases hv : s.steam.valve = .faultShut <;> by_cases hopen : s.steam.valve = .faultOpen <;>
        cases hself : s.seq.selfLock <;> simp_all

/-! ### The prevent-start checks -/

/-- A record is opened, and the first check that applies ends the cycle (R23 to R25). -/
theorem State.openRecord_preventStart_parts (s : State) :
    let locked := s.seq.commandedLock = true ∨ s.seq.selfLock = true
    let faulted := s.steam.valve = .faultOpen ∨ s.steam.valve = .faultShut
    let synced := s.tracker.lock = .locked ∧ s.tracker.indexKnown = true
    let locks := ¬ locked ∧ s.pins.jarPresent = true ∧ synced ∧ faulted
    let q := { s.seq with lastTemp := none, reachedClosing := false }
    let r := Record.opened s.tracker.revolution s.seq.activeBank s.pins.jarPresent
    let ends (r : Record) := { q with cycle := .ended, record := some r }
    let u := s.openRecord.preventStart
    u.seq =
      (if locked then
        ends (if s.pins.jarPresent then { r with capVerdict := some .heldOut }
          else { r with voidReason := .lockedEmpty })
      else if s.pins.jarPresent = false then ends r
      else if ¬ synced then ends { r with capVerdict := some .unsynced }
      else if faulted then { ends { r with capVerdict := some .heldOut } with selfLock := true }
      else if s.closing.ready = false then ends { r with capVerdict := some .driveDown }
      else { q with cycle := .loading, capGate := true, record := some r }) ∧
    u.link = (if locks then [Notice.state (.headLocked 2)] else []).foldl Link.offered s.link ∧
    (¬ locks → u.config = s.config) ∧ u.CountsKept s := by
  intro locked faulted synced locks q r ends u
  have hopened : s.openRecord = s.withSeq { q with record := some r } := rfl
  have hplain (v : State) (hu : u = v) (hv : v = s.withSeq v.seq) (hlocks : ¬ locks) :
      u.link = (if locks then [Notice.state (.headLocked 2)] else []).foldl Link.offered s.link ∧
      (¬ locks → u.config = s.config) ∧ u.CountsKept s := by
    rw [hu, hv, if_neg hlocks]
    exact ⟨rfl, fun _ => rfl, rfl, rfl, rfl, rfl⟩
  by_cases hlocked : locked
  · have hu : u = if s.pins.jarPresent then s.openRecord.endCycle .heldOut
        else s.openRecord.endNoJar .lockedEmpty := by
      have hcond : (s.seq.commandedLock || s.seq.selfLock) = true := by simpa using hlocked
      simp [u, State.preventStart, hopened, hcond, q]
    rw [if_pos hlocked]
    refine ⟨?_, hplain _ hu (by split <;> rfl) fun h => h.1 hlocked⟩
    rw [hu]
    cases s.pins.jarPresent <;> rfl
  have hcond : (s.seq.commandedLock || s.seq.selfLock) = false := by simpa [locked] using hlocked
  rw [if_neg hlocked]
  by_cases hjar : s.pins.jarPresent = false
  · have hu : u = s.openRecord.endNoJar .noJar := by
      simp [u, State.preventStart, hopened, hcond, q, hjar]
    rw [if_pos hjar]
    refine ⟨?_, hplain _ hu rfl fun h => absurd h.2.1 (by simp [hjar])⟩
    rw [hu]
    rfl
  rw [if_neg hjar]
  by_cases hsync : synced
  case neg =>
    have hu : u = s.openRecord.endCycle .unsynced := by
      have hlost : (s.tracker.lock != .locked || !s.tracker.indexKnown) = true := by
        simpa using not_and_or.mp hsync
      simp [u, State.preventStart, hopened, hcond, q, hjar, hlost]
    rw [if_pos hsync]
    refine ⟨?_, hplain _ hu rfl fun h => hsync h.2.2.1⟩
    rw [hu]
    rfl
  rw [if_neg (not_not.mpr hsync)]
  obtain ⟨hlock, hknown⟩ := hsync
  by_cases hfault : faulted
  · have hu : u = s.openRecord.setSelfLock.endCycle .heldOut := by
      have hvalve : (s.steam.valve == .faultOpen || s.steam.valve == .faultShut) = true := by
        rcases hfault with h | h <;> simp [h]
      simp [u, State.preventStart, hopened, hcond, q, hjar, hlock, hknown, hvalve]
    obtain ⟨hcommanded, hself⟩ := Bool.or_eq_false_iff.mp hcond
    have hset : s.openRecord.setSelfLock =
        (s.withSeq { q with record := some r, selfLock := true }).offer (.state (.headLocked 2)) := by
      simp [State.setSelfLock, hopened, hself, hcommanded, State.lockNotice_eq, q, State.withSeq]
    have hlocks : locks := ⟨hlocked, by simpa using hjar, ⟨hlock, hknown⟩, hfault⟩
    rw [if_pos hfault, if_pos hlocks, hu, hset]
    refine ⟨?_, by simp [State.endCycle, State.onRecord, State.offer_link], fun h => absurd hlocks h, ?_⟩
    · simp [State.endCycle, State.onRecord, ends, q]
    · exact State.CountsKept.trans (v := (s.withSeq _).offer _) ⟨rfl, rfl, rfl, rfl⟩
        ((State.offer_countsKept _ _).trans ⟨rfl, rfl, rfl, rfl⟩)
  have hvalve : (s.steam.valve == .faultOpen || s.steam.valve == .faultShut) = false := by
    obtain ⟨hopen, hshut⟩ := not_or.mp hfault
    simp [hopen, hshut]
  rw [if_neg hfault]
  by_cases hready : s.closing.ready = false
  · have hu : u = s.openRecord.endCycle .driveDown := by
      simp [u, State.preventStart, hopened, hcond, q, hjar, hlock, hknown, hvalve, hready]
    rw [if_pos hready]
    refine ⟨?_, hplain _ hu rfl fun h => hfault h.2.2.2⟩
    rw [hu]
    rfl
  · have hu : u = s.openRecord.withSeq { s.openRecord.seq with cycle := .loading, capGate := true } := by
      simp [u, State.preventStart, hopened, hcond, q, hjar, hlock, hknown, hvalve, hready]
    rw [if_neg hready]
    refine ⟨?_, hplain _ hu rfl fun h => hfault h.2.2.2⟩
    rw [hu]
    rfl

/-! ### INFEED whole -/

/-- What an INFEED in IDLE with the run line high does (R21 to R25, R51). -/
theorem State.takeUp_tookUp (s : State) :
    (s.takePendingBank.takePendingLock.openRecord.preventStart).TookUp s := by
  obtain ⟨hseq₁, hsteam₁, hlink₁, hcounts₁⟩ := s.takePendingBank_parts
  obtain ⟨hseq₂, hsteam₂, hlink₂, hcounts₂⟩ := s.takePendingBank.takePendingLock_parts
  obtain ⟨hseq₃, hlink₃, -, hcounts₃⟩ := s.takePendingBank.takePendingLock.openRecord_preventStart_parts
  rw [hseq₁, hsteam₁] at hseq₂ hlink₂ hsteam₂
  rw [hseq₂, hsteam₂] at hseq₃ hlink₃
  obtain ⟨hhead, hcheck, hrefused, hlifetime⟩ := (hcounts₃.trans hcounts₂).trans hcounts₁
  have hvalve (p : Prop) [Decidable p] (a b : Steam) :
      (if p then a else b).valve = if p then a.valve else b.valve := by split <;> rfl
  refine ⟨⟨?_, ?_, ?_⟩, ⟨hhead, hcheck, hrefused, hlifetime⟩, by simp⟩
  · rw [hseq₃]
    simp only [hvalve]
    simp
  · rw [State.preventStart_frame s.takePendingBank.takePendingLock.openRecord |>.2.2.2.2.2.2.2.2.2.2.2.1]
    simpa using hsteam₂
  · dsimp only
    rw [hlink₃, hlink₂, hlink₁, State.foldl_offer_link]
    simp only [List.foldl_append, hvalve, State.takePendingLock_frame,
      State.takePendingBank_frame] <;> rfl

/-- A posting reads the record that it posts, and not the one that stood before (R26). -/
theorem State.Posted.of_record {u s : State} {f : Record → Record} {r : Record}
    (h : u.Posted (s.onRecord f) r) : u.Posted s r where
  sequencer := h.sequencer
  spindle := h.spindle
  valve := h.valve
  void hj := by simpa [State.offer_link] using h.void hj
  sealed hj := by simpa [State.offer_link, State.bankOf] using h.sealed hj
  summary := h.summary
  rest := h.rest

/-- The record left open is posted, with ABORTED and cause INDEX if it has no verdict (R26). -/
theorem State.postLeftOver_posted {s : State} {r : Record} (hc : s.seq.cycle = .ended)
    (hr : s.seq.record = some r) (hf : s.steam.flush ≠ .opened) :
    s.postLeftOver.Posted s (if r.jarPresent = true ∧ r.capVerdict = none then
      { r with capVerdict := some .aborted, abortCause := some .index } else r) := by
  have hopen : (s.seq.cycle == .idle) = false := by rw [hc]; rfl
  unfold State.postLeftOver
  rw [hopen]
  refine State.Posted.of_record (State.releaseAndPost_posted ?_ hf)
  simp [State.onRecord, hr]

/-- An INFEED alone at a counted pulse: the pulse is measured, then INFEED is taken (R18). -/
theorem exec_infeedAlone {s : State} {t : Time} (jar cap : Bool) (h : s.infeedAlone t) :
    exec (.turretPulse ⟨t, none⟩ jar cap) s = .next (s.measuredPulse t jar cap).atInfeed ∧
    (s.measuredPulse t jar cap).tracker.indexKnown = true := by
  obtain ⟨hruns, hclose, hknown, hown, hnone⟩ := h
  have halone : s.pulseBoundaries t = [.infeed] := by
    simp only [State.pulseBoundaries, hknown, hown, hnone]
    rfl
  rw [exec_turretPulse_counted hruns hclose, halone]
  exact ⟨rfl, (s.measuredPulse_tracker t jar cap).2.trans hknown⟩

/-- A counted pulse changes the pins, the tracker, its count and the view of the drive line. -/
theorem State.atCounted_frame (s : State) (t : Time) (jar cap : Bool) (tr : Tracker) :
    let b := s.atCounted t jar cap tr
    b.seq = s.seq ∧ b.steam = s.steam ∧ b.closing = { s.closing with sent := [] } ∧ b.link = s.link ∧
    b.config = s.config ∧ b.verdicts = s.verdicts ∧ b.node = s.node ∧ b.memory = s.memory ∧
    b.transit = s.transit ∧ b.reject = s.reject := by
  simp [State.atCounted, State.atPulse]

theorem State.atInfeed_idle {s : State} (h : s.seq.cycle = .idle) : s.atInfeed =
    if s.pins.run = true then s.takePendingBank.takePendingLock.openRecord.preventStart else s := by
  have hleft : s.postLeftOver = s := by simp [State.postLeftOver, h]
  simp only [State.atInfeed, hleft]

/-- Settles O21: the record left open is posted, then what waits is taken up. -/
theorem infeedTakesWhatWaits : Obligations.InfeedTakesWhatWaits := by
  intro s t jar cap halone
  obtain ⟨hexec, -⟩ := exec_infeedAlone jar cap halone
  refine ⟨_, hexec, ?_⟩
  rw [(State.atInfeed_frame _).2.2.2.2.2.2.2.2.2.2.1]
  have hmeasured := s.measuredPulse_idle t jar cap
  obtain ⟨tr, htr⟩ : ∃ tr, tr = (s.measuredPulse t jar cap).tracker := ⟨_, rfl⟩
  rw [← htr] at hmeasured ⊢
  obtain ⟨hseq, hsteam, -⟩ := s.atCounted_frame t jar cap tr
  have hrun : (s.atCounted t jar cap tr).pins.run = s.pins.run := rfl
  refine ⟨fun hc hr => ?_, fun hc hr => ?_, fun r hc hrecord hf => ?_⟩
  · rw [hmeasured (by rw [hc]; rfl), State.atInfeed_idle (by rw [hseq, hc]), if_pos (hrun.trans hr)]
    exact State.takeUp_tookUp _
  · rw [hmeasured (by rw [hc]; rfl), State.atInfeed_idle (by rw [hseq, hc]), if_neg (by simp [hrun, hr])]
  · have hposted := State.postLeftOver_posted (s := s.atCounted t jar cap tr) (by rw [hseq, hc])
      (by rw [hseq, hrecord]) (by rwa [hsteam])
    rw [hmeasured (by rw [hc]; rfl)]
    unfold State.atInfeed
    refine ⟨fun hr => ?_, fun hr => ⟨_, hposted, ?_⟩⟩
    · simpa [hrun, hr] using hposted
    · simpa [hrun, hr] using State.takeUp_tookUp _

/-- Settles O20: with nothing pending, what INFEED takes up is the record and its checks alone. -/
theorem infeedChecks : Obligations.InfeedChecks := by
  intro s t jar cap halone hrun hidle hbank hlock
  obtain ⟨hexec, hknown⟩ := exec_infeedAlone jar cap halone
  have hmeasured := s.measuredPulse_idle t jar cap (by rw [hidle]; rfl)
  obtain ⟨tr, htr⟩ : ∃ tr, tr = (s.measuredPulse t jar cap).tracker := ⟨_, rfl⟩
  have hrevolution : tr.revolution = s.tracker.revolution := by
    rw [htr, (s.measuredPulse_tracker t jar cap).1]
  rw [← htr] at hmeasured hknown
  obtain ⟨bseq, bsteam, bclosing, blink, bconfig, bverdicts, bnode, bmemory, btransit, breject⟩ :=
    s.atCounted_frame t jar cap tr
  have bpins : (s.atCounted t jar cap tr).pins = { s.pins with jarPresent := jar, capPresent := cap } := rfl
  have btracker : (s.atCounted t jar cap tr).tracker = tr := rfl
  obtain ⟨b, hb⟩ : ∃ b, b = s.atCounted t jar cap tr := ⟨_, rfl⟩
  rw [← hb] at bseq bsteam bclosing blink bconfig bverdicts bnode bmemory btransit breject bpins btracker
  rw [hmeasured, ← hb] at hexec
  have htook : b.atInfeed = b.openRecord.preventStart := by
    rw [State.atInfeed_idle (by rw [bseq, hidle]), if_pos (by rw [bpins, hrun])]
    simp [State.takePendingBank, State.takePendingLock, bseq, hbank, hlock]
  rw [htook] at hexec
  rw [← btracker] at hknown hrevolution
  obtain ⟨useq, ulink, uconfig, -⟩ := b.openRecord_preventStart_parts
  rw [hknown, bseq, bpins, bsteam, bclosing, hrevolution] at useq
  rw [hknown, bseq, bpins, bsteam, blink] at ulink
  rw [hknown, bseq, bpins, bsteam, bconfig] at uconfig
  refine ⟨_, hexec, ?_, fun h => ?_, fun h => ?_, ?_⟩
  · rw [useq]
    cases jar <;> by_cases hl : b.tracker.lock = .locked <;> simp [Record.opened, hl]
  · rw [ulink, if_pos (by simpa [and_assoc] using h)]
    simp [State.offer_link]
  · refine ⟨?_, uconfig fun h' => h (by simpa [and_assoc] using h')⟩
    rw [ulink]
    split
    next h' => exact absurd (by simpa [and_assoc] using h') h
    next => rfl
  · simp [bsteam, bclosing, bverdicts, bpins, bnode, bmemory, btransit, breject]

end Sys2Proof.Machine
end

section
/-! The boundaries of a phase change (R27 to R36). -/

namespace Sys2Proof.Machine

/-! ### Handing a boundary over -/

/-- A phase change that reaches one boundary and leaves CLOSING hands it over to the sampled node (R17,
R85, log 12). -/
theorem exec_phaseBoundary_unapplied {s : State} {t : Time} {x : Boundary} (cap : Bool)
    {ahead : Option SampleEvent} (h : s.phaseReaches t [x])
    (hleft : ((s.sampledPhase t cap ahead).handBoundary x).seq.cycle.isClosing = false) :
    exec (.phaseBoundary ⟨t, ahead⟩ cap) s = .next ((s.sampledPhase t cap ahead).handBoundary x) := by
  have hreach : (s.sampledAt t ahead).takePhase cap = (s.sampledPhase t cap ahead).handBoundary x :=
    State.takePhase_reaches cap h ahead
  have hexec : exec (.phaseBoundary ⟨t, ahead⟩ cap) s =
    .next ((s.enter t).afterSample ahead (·.takePhase cap)) := rfl
  rw [hexec, State.afterSample_unapplied (f := (·.takePhase cap)) (by simpa only [hreach] using hleft),
    hreach]

/-- Without a sample ahead the boundary is handed over to the node at its phase (R17). -/
theorem exec_phaseBoundary_alone {s : State} {t : Time} {x : Boundary} (cap : Bool)
    (h : s.phaseReaches t [x]) :
    exec (.phaseBoundary ⟨t, none⟩ cap) s = .next ((s.atPhase t cap).handBoundary x) :=
  congrArg Host.Outcome.next (State.takePhase_reaches cap h none)

/-- What stands as it was when a phase is moved on. -/
theorem State.atPhase_frame (s : State) (t : Time) (cap : Bool) :
    let w := s.atPhase t cap
    w.seq = s.seq ∧ w.steam = s.steam ∧ w.config = s.config ∧ w.verdicts = s.verdicts ∧
    w.counters = s.counters ∧ w.closing = { s.closing with sent := [] } ∧ w.timeBase = t ∧
    w.pins = { s.pins with capPresent := cap } := by
  simp [State.atPhase]

/-- Settles O22: by the cap sensor in LOADING. -/
theorem pickDecides : Obligations.PickDecides := by
  intro s t cap h w
  rw [exec_phaseBoundary_alone cap h]
  obtain ⟨hseq, -⟩ := s.atPhase_frame t cap
  have hcap : (s.atPhase t cap).pins.capPresent = cap := rfl
  simp only [State.handBoundary, State.atPick, hseq]
  refine ⟨fun hc hp => ?_, fun hc hp => ?_, fun hc => ?_⟩
  · simp [hc, hcap.trans hp, State.withSeq, w]
  · simp [hc, hcap.trans hp, State.withSeq, State.endCycle, State.onRecord, w]
  · simp [hc, w]

/-- Settles O24: FLUSHING with the run line high starts the closing, and with it low is aborted. -/
theorem applyStartSeeks : Obligations.ApplyStartSeeks := by
  intro s t cap r h hc hr w b
  rw [exec_phaseBoundary_alone cap h]
  obtain ⟨hseq, -, hconfig, -, -, hclosing, -, hpins⟩ := s.atPhase_frame t cap
  simp only [State.handBoundary, State.atApplyStart, hseq, hc, hpins]
  refine ⟨fun hrun hfree => ?_, fun hrun => ?_⟩
  · simp [hrun, hclosing, State.onClosing, State.recordBank, hseq, hr, State.bankOf, hconfig,
      Closing.start, Closing.release, hfree, Closing.inForce, Bank.limits, State.withSeq,
      State.withClosing, w, b]
  · exact ⟨w.abort .runOff, by simp [hrun, w], by simp, w.abort_aborted .runOff⟩

/-! ### FLUSH_START -/

/-- A reading is clamped to 0..1000, and marked when that has changed it (R28). -/
theorem clampTemperature_eq (v : Int) :
    clampTemperature v = (if v < 0 then 0 else if 1000 < v then 1000 else v.toNat) ∧
    decide ((clampTemperature v : Int) ≠ v) = decide (v < 0 ∨ 1000 < v) := by
  have hclamp : clampTemperature v = min 1000 (max 0 v.toNat) := rfl
  refine ⟨?_, decide_eq_decide.mpr ?_⟩
  · split_ifs <;> omega
  · omega

/-- FLUSH_START with the run line high, the temperature taken as `r` (R28, R53). -/
theorem State.atFlushStart_running {s : State} {r : Record} (hc : s.seq.cycle = .primed)
    (hrun : s.pins.run = true)
    (hr : s.takeTemperature = s.withSeq { s.seq with record := some r }) :
    let trim := s.verdicts.trims.get r.bank
    let target := (s.bankOf r.bank).doseTarget + trim
    s.atFlushStart = (s.withSeq { s.seq with
      cycle := .flushing
      record := some { r with trimSnapshot := some trim, target := some target } }).openRequest target := by
  simp [State.atFlushStart, hc, hrun, hr, State.recordBank, State.onRecord, State.bankOf, State.withSeq]

/-- An open request at a shut valve whose feedback shows shut (R53). -/
theorem State.openRequest_opening {s : State} (target : Nat)
    (hv : s.steam.valve = .shut ∨ s.steam.valve = .shutting) (hp : s.pins.valveOpen = false) :
    s.openRequest target = { s with
      seq := { s.seq with record := s.seq.record.map fun r => { r with dose := 0 } }
      steam := { s.steam with
        flush := .opened, attached := true, target := some target, dose := 0
        commandOpen := true, valve := .opening, settle := some s.timeBase } } := by
  rcases hv with hv | hv <;>
    simp [State.openRequest, hv, hp, State.onRecord, State.withSeq, State.withSteam]

/-- An open request at a shut valve whose feedback shows open (R47, R53). -/
theorem State.openRequest_opened {s : State} (target : Nat)
    (hv : s.steam.valve = .shut ∨ s.steam.valve = .shutting) (hp : s.pins.valveOpen = true) :
    s.openRequest target = ({ s with
      seq := { s.seq with record := s.seq.record.map fun r => { r with dose := 0 } }
      steam := { s.steam with
        flush := .opened, attached := true, target := some target, dose := 0
        commandOpen := true, valve := .opened, settle := none
        ticks := some (s.timeBase + 1000#32) } } : State).offer .steamOpen := by
  rcases hv with hv | hv <;>
    simp [State.openRequest, hv, hp, State.onRecord, State.withSeq, State.withSteam, State.enterOpen,
      State.firstTick, msTime]

/-- An open request at a valve in a fault state: the flush ends with cause VALVE (R53, R56). -/
theorem State.openRequest_faulted {s : State} {target : Nat}
    (hv : s.steam.valve = .faultOpen ∨ s.steam.valve = .faultShut) (ht : 0 < target) :
    s.openRequest target = { s with
      seq := { s.seq with record := s.seq.record.map fun r =>
        { r with dose := 0, valveFault := true, flushEnd := .valve, steamResult := .underflush } }
      steam := { s.steam with flush := .ended, attached := true, target := some target, dose := 0 }
      counters := { s.counters with
        head := { s.counters.head with underflushes := s.counters.head.underflushes + 1 } } } := by
  have hnone : target ≠ 0 := by omega
  rcases hv with hv | hv <;>
    simp [State.openRequest, hv, hnone, State.onRecord, State.withSeq, State.withSteam, State.closeFlush,
      State.countHead, State.withCounters, Function.comp_def]

/-- Settles O23: a reading is kept; at FLUSH_START the valve goes by its state and feedback. -/
theorem flushStartOpens : Obligations.FlushStartOpens := by
  refine ⟨fun s t reading hruns => ?_, ?_⟩
  · have hexec : exec (.temperatureReading t reading) s = execTemperatureReading t reading s := rfl
    simp [hexec, execTemperatureReading, hruns, State.enter_runs, State.withSeq]
  intro s t cap r h hc hr
  obtain ⟨hseq, hsteam, hconfig, hverdicts, hcounters, -, htime, hpins⟩ := s.atPhase_frame t cap
  rw [exec_phaseBoundary_alone cap h]
  generalize s.atPhase t cap = w at *
  intro w' trim target r1 r2 q st idle faulted
  have htemp : w.takeTemperature = w.withSeq { w.seq with record := some r1 } := by
    have hdefault : w.bankOf s.seq.activeBank = s.bankOf s.seq.activeBank := by
      simp [State.bankOf, hconfig]
    rcases hlast : s.seq.lastTemp with _ | ⟨v, _ | _⟩
    case none => simp [State.takeTemperature, r1, hlast, hdefault, State.onRecord, hseq, hr]
    case some.false => simp [State.takeTemperature, r1, hlast, hdefault, State.onRecord, hseq, hr]
    case some.true =>
      obtain ⟨htaken, hclamped⟩ := clampTemperature_eq v
      simp only [State.takeTemperature, r1, hseq, hlast, ← htaken, ← hclamped]
      simp [State.onRecord, hseq, hr, hlast]
  have hbank : r1.bank = r.bank := by
    simp only [r1]
    split <;> rfl
  clear_value r1
  have hstart (hrun : s.pins.run = true) : w.handBoundary .flushStart = (w.withSeq { s.seq with
      cycle := .flushing
      record := some { r1 with trimSnapshot := some trim, target := some target } }).openRequest target := by
    have hat := State.atFlushStart_running (by rw [hseq, hc]) (by rw [hpins, hrun]) htemp
    rw [State.handBoundary, hat]
    simp [trim, target, hverdicts, State.bankOf, hconfig, hbank, hseq]
  refine ⟨fun hrun hidle hshut => ?_, fun hrun hidle hopen => ?_, fun hrun hfault htarget => ?_,
    fun hrun => ?_⟩
  · rw [hstart hrun, State.openRequest_opening target (by simpa [hsteam] using hidle)
      (by simp [hpins, hshut])]
    simp [State.withSeq, hsteam, htime, w', q, r2, st]
  · rw [hstart hrun, State.openRequest_opened target (by simpa [hsteam] using hidle)
      (by simp [hpins, hopen])]
    simp [State.withSeq, hsteam, htime, w', q, r2, st]
  · rw [hstart hrun, State.openRequest_faulted (by simpa [hsteam] using hfault) htarget]
    simp [State.withSeq, hsteam, hcounters, w', q, r2, st]
  · refine ⟨w.abort .runOff, ?_, by simp [w'], w.abort_aborted .runOff⟩
    simp [State.handBoundary, State.atFlushStart, hseq, hc, hpins, hrun]

/-! ### FLUSH_END -/

/-- The close of a flush whole: the cause, the result and the count (R54, R56). -/
theorem State.closeFlush_eq (s : State) (cause : FlushEnd) :
    s.closeFlush cause = { s with
      seq := { s.seq with
        record := s.seq.record.map fun r : Record =>
          r.endFlush cause (s.steam.target.getD 0) s.steam.dose }
      steam := { s.steam with flush := .ended }
      counters := if s.steam.target.getD 0 ≤ s.steam.dose then s.counters else { s.counters with
        head := { s.counters.head with underflushes := s.counters.head.underflushes + 1 } } } := by
  unfold State.closeFlush
  by_cases hfull : s.steam.target.getD 0 ≤ s.steam.dose <;>
    simp [hfull, Record.endFlush, State.onRecord, State.withSeq, State.withSteam, State.countHead,
      State.withCounters]

/-- Settles O25: an open flush of a closing is closed and its valve commanded shut. -/
theorem flushEndShuts : Obligations.FlushEndShuts := by
  intro s t cap sub h
  obtain ⟨hseq, hsteam, -, -, hcounters, -, htime, hpins⟩ := s.atPhase_frame t cap
  rw [exec_phaseBoundary_alone cap h]
  generalize s.atPhase t cap = w at *
  intro w' full w1 st
  simp only [State.handBoundary, State.atFlushEnd, State.shutRequest, hseq, hsteam]
  refine ⟨fun hc hf hv => ?_, fun hc hf hv hp => ?_, fun hout => ?_⟩
  · cases hp : s.pins.valveOpen <;>
      simp [hc, CycleState.isClosing, hf, State.closeFlush_eq, State.shutValve, hv, hp, hsteam, hseq,
        hcounters, htime, hpins, State.withSteam, w', w1, st, full]
  · simp [hc, CycleState.isClosing, hf, State.closeFlush_eq, State.shutValve, hv, hp, hsteam, hseq,
      hcounters, hpins, State.withSteam, w', w1, st, full]
  · rcases hout with hc | hf
    · simp [hc, w']
    · simp [hf, w']

end Sys2Proof.Machine
end

section
/-! A drive sample (R69 to R88): the closing unit's tests, phase by phase, and the report that the sequencer
takes. -/

namespace Sys2Proof.Machine

/-! ### What a shut request leaves, read from an unlike base -/

/-- A shut request reads the steam unit, the link, the pins and the time base of its base. -/
theorem State.FlushShut.of_base {u s b : State} (h : u.FlushShut b) (hsteam : b.steam = s.steam)
    (hlink : b.link = s.link) (hpins : b.pins = s.pins) (htime : b.timeBase = s.timeBase) :
    u.FlushShut s := by
  obtain ⟨h1, h2, h3, h4, h5⟩ := h
  rw [hsteam] at h1 h2 h3 h4 h5
  simp only [State.offer_link, hlink, hpins, htime] at h1 h3 h4 h5
  exact ⟨h1, h2, by simpa only [State.offer_link] using h3, h4, h5⟩

/-- The end of a flush in a record, as R54 and as R56 say it. -/
theorem State.shutInto_eq (s : State) (cause : FlushEnd) (r : Record) : s.shutInto cause r =
    if s.steam.flush = .opened then r.flushed cause (decide (s.steam.target.getD 0 ≤ s.steam.dose)) else r := by
  simp [State.shutInto, Record.endFlush, Record.flushed]

/-- A shut request writes the open cycle's record (R54). -/
theorem State.shutRequest_seq (s : State) (cause : FlushEnd) :
    (s.shutRequest cause).seq = { s.seq with record := s.seq.record.map (s.shutInto cause) } := by
  rw [(s.shutRequest_parts cause).1]
  by_cases hf : s.steam.flush = .opened <;> simp [hf, funext (s.shutInto_eq cause)]

/-! ### The report -/

/-- The report of an event that concerns no closing changes nothing (R85). -/
theorem State.takeReport_nothing (s : State) : s.takeReport .nothing = s := by
  have hrecord (r : Record) : r.report .nothing = r := by simp [Record.report, ClosingReport.nothing]
  have hresult : ClosingReport.nothing.result = .stays := rfl
  simp [State.takeReport, hresult, State.onRecord, hrecord, State.withSeq]

/-- A report that stays in its phase writes the record (R85). -/
theorem State.takeReport_stays {s : State} {p : ClosingReport} (hc : s.seq.cycle.isClosing = true)
    (hp : p.result = .stays) : s.takeReport p = s.onRecord fun r => r.report p := by
  simp [State.takeReport, hc, hp]

theorem State.takeReport_enters {s : State} {p : ClosingReport} {sub : SubPhase}
    (hc : s.seq.cycle.isClosing = true) (hp : p.result = .enters sub) :
    s.takeReport p = s.withSeq { s.seq with
      cycle := .closing sub, record := s.seq.record.map fun r => r.report p } := by
  simp [State.takeReport, hc, hp, State.onRecord, State.withSeq]

/-- A report of an ending ends the cycle and shuts an open flush (R85). -/
theorem State.takeReport_ends {s : State} {p : ClosingReport} {v : CapVerdict}
    (hc : s.seq.cycle.isClosing = true) (hp : p.result = .ends v) :
    (s.takeReport p).closing = s.closing ∧ (s.takeReport p).FlushShut s ∧
    (s.takeReport p).seq = { s.seq with
      cycle := .ended
      record := s.seq.record.map fun r =>
        { s.shutInto .abort (r.report p) with capVerdict := some v } } := by
  have hends : s.takeReport p = ((s.onRecord fun r => r.report p).shutRequest .abort).endCycle v := by
    simp [State.takeReport, hc, hp]
  rw [hends]
  refine ⟨by simp [State.endCycle, State.onRecord], ?_, ?_⟩
  · refine (((s.onRecord fun r => r.report p).shutRequest_flushShut .abort).congr ?_ ?_).of_base ?_ ?_ ?_ ?_
      <;> simp [State.endCycle, State.onRecord]
  · simp [State.endCycle, State.onRecord, State.shutRequest_seq, Function.comp_def]
    rfl

/-- With no flush open a report of an ending changes the sequencer alone. -/
theorem State.takeReport_ends_unopened {s : State} {p : ClosingReport} {v : CapVerdict}
    (hc : s.seq.cycle.isClosing = true) (hp : p.result = .ends v) (hf : s.steam.flush ≠ .opened) :
    s.takeReport p = s.withSeq { s.seq with
      cycle := .ended
      record := s.seq.record.map fun r => { r.report p with capVerdict := some v } } := by
  simp [State.takeReport, hc, hp, State.shutRequest, hf, State.endCycle, State.onRecord, State.withSeq,
    Function.comp_def]

/-! ### The closing unit -/

/-- Steps 2 and 3 of R74 from a known angle (R77, R78). -/
theorem Closing.turned_eq {c : Closing} {p : Half} (hp : c.prevAngle = some p) (torque : Torque)
    (angle : Half) : (c.accumulate angle).updatePeak torque = c.turned p torque angle := by
  simp [Closing.accumulate, Closing.updatePeak, Closing.turned, hp, BitVec.slt]

/-- A good sample that arrives in a closing is handled with its own values (R69, R72, R74). -/
theorem State.unitTakes_good {s : State} {t : Time} {d : DriveSample} (hr : s.headRuns = true)
    (hg : sampleGood d = true) (hrun : s.closing.phase.running = true) :
    (s.enter t).unitTakes (.arrival d) =
      ((s.enter t).withClosing (s.closing.afterGood t d)).unitHandles d.torque d.angle false := by
  simp [State.unitTakes, State.enter_runs, hr, hg, State.unitTakesGood, State.onClosing, Closing.resend,
    Closing.takeGood, hrun, State.withClosing, Closing.afterGood, sampleGap]

/-- Handled values whose test does not enter TIGHTEN change the closing unit alone (R74). -/
theorem State.unitHandles_eq {s : State} {p : Half} (hp : s.closing.prevAngle = some p) (torque : Torque)
    (angle : Half) (held : Bool) :
    let c := s.closing.turned p torque angle
    let tested := c.testPhase torque
    s.unitHandles torque angle held =
      (if tested.2 = .enters .tighten then (s.withClosing tested.1).shutRequest .engage
        else s.withClosing tested.1,
       { result := tested.2, securityAngle := c.angleWritten tested.2, peakTorque := some c.peak
         feedbackHeld := held }) := by
  simp only [State.unitHandles, Closing.handle, Closing.turned_eq hp]

/-- A good sample in a closing: the test of its phase, then its report (R74, R85). -/
theorem exec_driveSample_closing {s : State} {t : Time} {d : DriveSample} {p : Half}
    (hr : s.headRuns = true) (hg : sampleGood d = true) (hrun : s.closing.phase.running = true)
    (hp : s.closing.prevAngle = some p) :
    let c := (s.closing.afterGood t d).turned p d.torque d.angle
    let tested := c.testPhase d.torque
    let x := (s.enter t).withClosing tested.1
    exec (.driveSample t d) s = .next
      ((if tested.2 = .enters .tighten then x.shutRequest .engage else x).takeReport
        { result := tested.2, securityAngle := c.angleWritten tested.2, peakTorque := some c.peak
          feedbackHeld := false }) := by
  have hexec : exec (.driveSample t d) s =
    .next (((s.enter t).unitTakes (.arrival d)).1.takeReport ((s.enter t).unitTakes (.arrival d)).2) := rfl
  have hhandles := State.unitHandles_eq (s := (s.enter t).withClosing (s.closing.afterGood t d)) hp
    d.torque d.angle false
  rw [hexec, State.unitTakes_good hr hg hrun, hhandles]
  rfl

/-! ### Outside a closing -/

theorem onesIn_bitsOf {w : Nat} (x : BitVec w) (n : Nat) :
    onesIn (bitsOf n x.toNat) = (List.range n).countP (fun i => x.getLsbD i) := by
  induction n with
  | zero => rfl
  | succ k ih =>
    rw [List.range_succ, List.countP_append, ← ih]
    simp [bitsOf, onesIn, List.countP_cons, BitVec.testBit_toNat]

/-- A sample is good when its ones are even and its status is OK (R69). -/
theorem sampleGood_iff (d : DriveSample) : sampleGood d = true ↔
    ((List.range 12).countP (fun i => d.torque.getLsbD i) +
      (List.range 16).countP (fun i => d.angle.getLsbD i) +
      (if d.status = .fault then 1 else 0) + (if d.parity then 1 else 0)) % 2 = 0 ∧ d.status = .ok := by
  have hones (a b : List Bool) : onesIn (a ++ b) = onesIn a + onesIn b := List.countP_append
  rw [sampleGood, sampleParityEven, hones, hones, onesIn_bitsOf, onesIn_bitsOf]
  cases d.status <;> cases d.parity <;> simp [onesIn, driveStatusBit, Nat.add_assoc]

/-- Settles O33: outside a closing a sample is classified and goes no further. -/
theorem samplesOutsideAClosing : Obligations.SamplesOutsideAClosing := by
  intro s t d hr hphase ones good w bad run
  have hrun : s.closing.phase.running = false := by rcases hphase with h | h <;> rw [h] <;> rfl
  have hgood : sampleGood d = true ↔ good := sampleGood_iff d
  have hruns : (s.enter t).headRuns = true := (State.enter_runs s t).1.trans hr
  have harrives : exec (.driveSample t d) s = .next ((s.enter t).takeSample (.arrival d)) := rfl
  have hmissing : exec (.sampleDeadline t) s = .next ((s.enter t).takeSample .missing) := rfl
  rw [harrives, hmissing]
  simp only [State.takeSample, State.unitTakes, hruns, if_true]
  refine ⟨fun hg => ?_, fun hg => ?_, fun hdue => ?_, fun hdue => ?_⟩
  · have hg' := hgood.mpr hg
    simp [hg', State.unitTakesGood, State.onClosing, Closing.resend, Closing.takeGood, hrun,
      State.takeReport_nothing, State.withClosing, Closing.afterGood, sampleGap, w]
  · have hg' : sampleGood d = false := Bool.eq_false_iff.mpr fun h => hg (hgood.mp h)
    simp [hg', State.unitTakesBad, State.onClosing, Closing.resend, Closing.takeBad, hrun,
      State.takeReport_nothing, State.withClosing, State.countHead, State.withCounters, sampleGap, badRunCap,
      w, run, bad]
  · simp [reached, hdue, State.takeReport_nothing, w]
  · simp [reached, hdue, State.takeReport_nothing, State.unitTakesBad, State.onClosing, Closing.takeBad, hrun,
      State.withClosing, State.countHead, State.withCounters, sampleGap, badRunCap, w, run, bad]

/-! ### What a test leads to -/

/-- A record with what a sample measures written into it (R78, R80, R81). -/
def Record.measured (angle : Option Nat) (peak : Torque) (r : Record) : Record :=
  { r with securityAngle := angle <|> r.securityAngle, peakTorque := peak }

/-- The report of a sample that is not held writes what was measured (R85). -/
theorem Record.report_measured (r : Record) (result : SampleResult) (angle : Option Nat) (peak : Torque) :
    r.report { result := result, securityAngle := angle, peakTorque := some peak, feedbackHeld := false } =
      r.measured angle peak := by
  simp [Record.report, Record.measured]

/-- What is measured and the end of the flush stand in different fields of the record. -/
theorem State.shutInto_measured (s : State) (cause : FlushEnd) (r : Record) (angle : Option Nat)
    (peak : Torque) :
    (s.shutInto cause r).measured angle peak = s.shutInto cause (r.measured angle peak) := by
  unfold State.shutInto
  split <;> rfl

/-- The moment of a command and the closing unit do not enter a shut request's record. -/
theorem State.shutInto_taken (s : State) (t : Time) (c : Closing) :
    ((s.enter t).withClosing c).shutInto = s.shutInto := by
  funext cause r
  simp [State.shutInto]

section
variable {s u : State} {t : Time} {d : DriveSample} {p : Half} {c c' : Closing}
  (hu : exec (.driveSample t d) s = .next u)
  (hr : s.headRuns = true) (hg : sampleGood d = true) (hrun : s.closing.phase.running = true)
  (hp : s.closing.prevAngle = some p) (hcycle : s.seq.cycle.isClosing = true)
  (hc : c = (s.closing.afterGood t d).turned p d.torque d.angle)
include hu hr hg hrun hp hcycle hc

/-- A test that comes to nothing writes what was measured (R74, R85). -/
theorem driveSample_stays (htest : c.testPhase d.torque = (c', .stays)) :
    u = { s.enter t with
      closing := c'
      seq := { s.seq with
        record := s.seq.record.map (Record.measured (c.angleWritten .stays) c.peak) } } := by
  have hexec := hu.symm.trans (exec_driveSample_closing hr hg hrun hp)
  rw [← hc] at hexec
  rw [htest, if_neg (by simp), State.takeReport_stays (by simpa using hcycle) rfl] at hexec
  injection hexec with hexec
  rw [hexec]
  simp [State.onRecord, State.withSeq, State.withClosing, Record.report_measured]

theorem driveSample_enters {sub : SubPhase} (htest : c.testPhase d.torque = (c', .enters sub))
    (hsub : sub ≠ .tighten) :
    u = { s.enter t with
      closing := c'
      seq := { s.seq with
        cycle := .closing sub
        record := s.seq.record.map (Record.measured (c.angleWritten (.enters sub)) c.peak) } } := by
  have hexec := hu.symm.trans (exec_driveSample_closing hr hg hrun hp)
  rw [← hc] at hexec
  rw [htest, if_neg (by simpa using hsub), State.takeReport_enters (by simpa using hcycle) rfl] at hexec
  injection hexec with hexec
  rw [hexec]
  simp [State.withSeq, State.withClosing, Record.report_measured]

/-- The engage shuts an open flush, then the record is written (R80, R85). -/
theorem driveSample_engages (htest : c.testPhase d.torque = (c', .enters .tighten)) :
    u.closing = c' ∧ u.FlushShut (s.enter t) ∧
    u.seq = { s.seq with
      cycle := .closing .tighten
      record := s.seq.record.map fun r =>
        s.shutInto .engage (r.measured (c.angleWritten (.enters .tighten)) c.peak) } := by
  have hexec := hu.symm.trans (exec_driveSample_closing hr hg hrun hp)
  rw [← hc] at hexec
  rw [htest, if_pos rfl, State.takeReport_enters (sub := .tighten) (by simpa using hcycle) rfl] at hexec
  injection hexec with hexec
  rw [hexec]
  refine ⟨by simp, ?_, ?_⟩
  · have hflush := ((s.enter t).withClosing c').shutRequest_flushShut .engage
    have hbase : (((s.enter t).withClosing c').shutRequest .engage).FlushShut (s.enter t) :=
      hflush.of_base rfl rfl rfl rfl
    exact hbase.congr rfl rfl
  · simp [State.shutRequest_seq, Function.comp_def, Record.report_measured, State.shutInto_measured,
      State.shutInto_taken]

/-- A test that comes to an ending ends the cycle and shuts an open flush (R84, R85). -/
theorem driveSample_ends {v : CapVerdict} (htest : c.testPhase d.torque = (c', .ends v)) :
    u.closing = c' ∧ u.FlushShut (s.enter t) ∧
    u.seq = { s.seq with
      cycle := .ended
      record := s.seq.record.map fun r =>
        { s.shutInto .abort (r.measured (c.angleWritten (.ends v)) c.peak) with capVerdict := some v } } := by
  have hexec := hu.symm.trans (exec_driveSample_closing hr hg hrun hp)
  rw [← hc] at hexec
  rw [htest, if_neg (by simp)] at hexec
  injection hexec with hexec
  rw [hexec]
  obtain ⟨hclosing, hflush, hseq⟩ := State.takeReport_ends (v := v) (s := (s.enter t).withClosing c')
    (p := { result := .ends v, securityAngle := _, peakTorque := some _, feedbackHeld := false })
    (by simpa using hcycle) rfl
  refine ⟨hclosing, hflush.of_base rfl rfl rfl rfl, hseq.trans ?_⟩
  simp [Record.report_measured, State.shutInto_taken]

/-- The same with no flush open: the sequencer and the closing unit change, and nothing else. -/
theorem driveSample_ends_unopened {v : CapVerdict} (htest : c.testPhase d.torque = (c', .ends v))
    (hf : s.steam.flush ≠ .opened) :
    u = { s.enter t with
      closing := c'
      seq := { s.seq with
        cycle := .ended
        record := s.seq.record.map fun r =>
          { r.measured (c.angleWritten (.ends v)) c.peak with capVerdict := some v } } } := by
  have hexec := hu.symm.trans (exec_driveSample_closing hr hg hrun hp)
  rw [← hc] at hexec
  rw [htest, if_neg (by simp),
    State.takeReport_ends_unopened (by simpa using hcycle) rfl (by simpa using hf)] at hexec
  injection hexec with hexec
  rw [hexec]
  simp [State.withSeq, State.withClosing, Record.report_measured]

end

/-! ### The tests of the phases -/

section
variable {c : Closing} {l : ClosingLimits} (hl : c.limits = some l)
include hl

theorem Closing.limit_eq (f : ClosingLimits → Nat) : c.limit f = f l := by
  simp only [Closing.limit, hl]

/-- The test of SEEK (R79). -/
theorem Closing.testPhase_seek (hphase : c.phase = .seek) (torque : Torque) :
    ((l.tEngage : Int) ≤ torque.toInt → c.testPhase torque =
      ({ c with engageAngle := some c.angle, phase := .tighten }, .enters .tighten)) ∧
    (torque.toInt < l.tEngage → (l.sMax : Int) < c.angle.toInt →
      c.testPhase torque = (c.ended, .ends .noEngage)) ∧
    (torque.toInt < l.tEngage → c.angle.toInt ≤ l.sMax → c.testPhase torque = (c, .stays)) := by
  simp only [Closing.testPhase, hphase, Closing.testSeek, Closing.limit_eq hl]
  refine ⟨fun h => if_pos h, fun h hpast => ?_, fun h hwithin => ?_⟩
  · rw [if_neg (by omega), if_pos hpast]
    rfl
  · rw [if_neg (by omega), if_neg (by omega)]

/-- The test of TIGHTEN (R81, R82). -/
theorem Closing.testPhase_tighten {engage : BitVec 32} (hphase : c.phase = .tighten)
    (he : c.engageAngle = some engage) (torque : Torque) :
    let final := (l.tFinal : Int) ≤ torque.toInt
    let angle := (c.angle - engage).toInt
    (final → angle < l.aMin → c.testPhase torque = (c.ended, .ends .cross)) ∧
    (final → (l.aMin : Int) ≤ angle → angle ≤ l.aMax → c.testPhase torque =
      ({ c with
        phase := .dwell, slip := 0, command := .hold l.tFinal, sent := c.sent ++ [.hold l.tFinal] },
       .enters .dwell)) ∧
    (final → (l.aMin : Int) ≤ angle → (l.aMax : Int) < angle →
      c.testPhase torque = (c.ended, .ends .skip)) ∧
    (¬ final → (l.aMax : Int) < angle → c.testPhase torque = (c.ended, .ends .skip)) ∧
    (¬ final → angle ≤ l.aMax → c.testPhase torque = (c, .stays)) := by
  intro final angle
  have hsecurity : c.security = angle := by simp only [Closing.security, he, Option.getD_some, angle]
  simp only [Closing.testPhase, hphase, Closing.testTighten, Closing.limit_eq hl, hsecurity]
  refine ⟨fun h hlow => ?_, fun h hlow hhigh => ?_, fun h hlow hhigh => ?_, fun h hhigh => ?_,
    fun h hhigh => ?_⟩
  · rw [if_pos h, if_pos hlow]
    rfl
  · rw [if_pos h, if_neg (by omega), if_pos hhigh]
    simp [Closing.seat, Closing.inForce, Closing.limit_eq hl]
  · rw [if_pos h, if_neg (by omega), if_neg (by omega)]
    rfl
  · rw [if_neg h, if_pos hhigh]
    rfl
  · rw [if_neg h, if_neg (by omega)]

/-- The test of DWELL (R83). -/
theorem Closing.testPhase_dwell (hphase : c.phase = .dwell) (torque : Torque) :
    (torque.toInt < l.tHold → c.slip < 3 →
      c.testPhase torque = ({ c with slip := c.slip + 1 }, .stays)) ∧
    (torque.toInt < l.tHold → 3 ≤ c.slip → c.testPhase torque = (c.ended, .ends .slipped)) ∧
    (¬ torque.toInt < l.tHold → c.testPhase torque = ({ c with slip := 0 }, .stays)) := by
  simp only [Closing.testPhase, hphase, Closing.testDwell, Closing.limit_eq hl, slipLimit]
  refine ⟨fun h hslip => ?_, fun h hslip => ?_, fun h => if_neg h⟩
  · rw [if_pos h, if_neg (by omega)]
  · rw [if_pos h, if_pos hslip]
    rfl

end

/-- Settles O34: by the three outcomes of the test of SEEK. -/
theorem seekTest : Obligations.SeekTest := by
  intro s t d l p sub hr hg hphase hl hp hc w c measured
  obtain ⟨u, hu⟩ : ∃ u, exec (.driveSample t d) s = .next u := ⟨_, rfl⟩
  have hrun : s.closing.phase.running = true := by rw [hphase]; rfl
  have hcycle : s.seq.cycle.isClosing = true := by rw [hc]; rfl
  have hseek : c.phase = .seek := hphase
  obtain ⟨hengages, hpasses, hstays⟩ := Closing.testPhase_seek (c := c) hl hseek d.torque
  refine ⟨u, hu, fun hengage => ?_, fun hlow hpast => ?_, fun hlow hwithin => ?_⟩
  · obtain ⟨hclosing, hflush, hseq⟩ :=
      driveSample_engages hu hr hg hrun hp hcycle (c := c) rfl (hengages hengage)
    refine ⟨hclosing, hseq.trans ?_, hflush⟩
    simp [Closing.angleWritten, hseek, Record.measured, measured]
  · obtain ⟨hclosing, hflush, hseq⟩ :=
      driveSample_ends hu hr hg hrun hp hcycle (c := c) rfl (hpasses hlow hpast)
    refine ⟨hclosing, hseq.trans ?_, hflush⟩
    simp [Closing.angleWritten, hseek, Record.measured, measured]
  · have hmeasured : Record.measured (c.angleWritten .stays) c.peak = measured := by
      funext r
      simp [Record.measured, Closing.angleWritten, hseek, measured]
    rw [driveSample_stays hu hr hg hrun hp hcycle (c := c) rfl (hstays hlow hwithin), hmeasured]

/-- Settles O35: by the torque and the angle band. -/
theorem tightenTest : Obligations.TightenTest := by
  intro s t d l p sub engage hr hg hphase hl hp he hc w c angle measured ends final
  obtain ⟨u, hu⟩ : ∃ u, exec (.driveSample t d) s = .next u := ⟨_, rfl⟩
  have hrun : s.closing.phase.running = true := by rw [hphase]; rfl
  have hcycle : s.seq.cycle.isClosing = true := by rw [hc]; rfl
  have htighten : c.phase = .tighten := hphase
  have hengage : c.engageAngle = some engage := he
  obtain ⟨hcross, hseats, hskip, hpasses, hstays⟩ :=
    Closing.testPhase_tighten (c := c) hl htighten hengage d.torque
  have hclamp : clampNat 0 securityCap angle =
      if angle < 0 then 0 else if 16384 < angle then 16384 else angle.toNat := by
    have hcap : securityCap = 16384 := rfl
    unfold clampNat
    split_ifs <;> omega
  have hmeasured (result : SampleResult) : Record.measured (c.angleWritten result) c.peak = measured := by
    funext r
    have hangle : c.security = angle := by simp only [Closing.security, hengage, Option.getD_some, angle]
    simp [Record.measured, Closing.angleWritten, htighten, hangle, hclamp, measured]
  have hends (v : CapVerdict) (h : c.testPhase d.torque = (c.ended, .ends v)) : ends u v := by
    obtain ⟨hclosing, hflush, hseq⟩ := driveSample_ends hu hr hg hrun hp hcycle (c := c) rfl h
    rw [hmeasured] at hseq
    exact ⟨hclosing, hflush, hseq⟩
  refine ⟨u, hu, fun hf hlow => hends _ (hcross hf hlow), fun hf hlow hhigh => ?_,
    fun hf hlow hhigh => hends _ (hskip hf hlow hhigh), fun hf hhigh => hends _ (hpasses hf hhigh),
    fun hf hhigh => ?_⟩
  · refine (driveSample_enters hu hr hg hrun hp hcycle (c := c) rfl (hseats hf hlow hhigh)
      (by simp)).trans ?_
    rw [hmeasured]
    rfl
  · rw [driveSample_stays hu hr hg hrun hp hcycle (c := c) rfl (hstays hf hhigh), hmeasured]

/-- Settles O36: by the torque and the slip count. -/
theorem dwellTest : Obligations.DwellTest := by
  intro s t d l p sub hr hg hphase hl hp hc hf w c measured q low
  obtain ⟨u, hu⟩ : ∃ u, exec (.driveSample t d) s = .next u := ⟨_, rfl⟩
  have hrun : s.closing.phase.running = true := by rw [hphase]; rfl
  have hcycle : s.seq.cycle.isClosing = true := by rw [hc]; rfl
  have hdwell : c.phase = .dwell := hphase
  obtain ⟨hslips, hends, hholds⟩ := Closing.testPhase_dwell (c := c) hl hdwell d.torque
  have hmeasured (result : SampleResult) : Record.measured (c.angleWritten result) c.peak = measured := by
    funext r
    simp [Record.measured, Closing.angleWritten, hdwell, measured]
  rw [hu]
  refine ⟨fun hlow hslip => ?_, fun hlow hslip => ?_, fun hhigh => ?_⟩
  · rw [driveSample_stays hu hr hg hrun hp hcycle (c := c) rfl (hslips hlow hslip), hmeasured]
    rfl
  · rw [driveSample_ends_unopened hu hr hg hrun hp hcycle (c := c) rfl (hends hlow hslip) hf, hmeasured]
  · rw [driveSample_stays hu hr hg hrun hp hcycle (c := c) rfl (hholds hhigh), hmeasured]

end Sys2Proof.Machine
end

section
/-! APPLY_END and RELEASE with a sample event ahead of them (R33, R35, R36, R85 to R87). -/

namespace Sys2Proof.Machine

/-! ### A node that a sample has been taken ahead at -/

/-- The closing unit with a good sample's values accumulated, before the test of its phase (R74). -/
def Closing.handled (c : Closing) (t : Time) (d : DriveSample) : Closing :=
  ((c.afterGood t d).accumulate d.angle).updatePeak d.torque

theorem Closing.handled_eq {c : Closing} {p : Half} (hp : c.prevAngle = some p) (t : Time)
    (d : DriveSample) : c.handled t d = (c.afterGood t d).turned p d.torque d.angle :=
  Closing.turned_eq (c := c.afterGood t d) hp d.torque d.angle

/-- A good sample in a closing, taken ahead, moves the closing unit alone unless it is the engage (R74). -/
theorem State.sampledAt_good {s : State} {t : Time} {d : DriveSample} {c' : Closing}
    {result : SampleResult} (hr : s.headRuns = true) (hg : sampleGood d = true)
    (hrun : s.closing.phase.running = true)
    (htest : (s.closing.handled t d).testPhase d.torque = (c', result))
    (hresult : result ≠ .enters .tighten) :
    s.sampledAt t (some (.arrival d)) = (s.enter t).withClosing c' := by
  have htaken : s.sampledAt t (some (.arrival d)) = ((s.enter t).unitTakes (.arrival d)).1 := rfl
  have hunit : ((s.closing.afterGood t d).handle d.torque d.angle false).1 = c' :=
    congrArg Prod.fst htest
  have hcame : ((s.closing.afterGood t d).handle d.torque d.angle false).2.result = result :=
    congrArg Prod.snd htest
  simp only [htaken, State.unitTakes_good hr hg hrun, State.unitHandles, State.withClosing_closing, hcame,
    hunit, if_neg hresult]
  rfl

/-- With no flush open, what a sample ahead leaves as it was (R85). -/
theorem State.sampledPhase_frame {s : State} (t : Time) (cap : Bool) (ahead : Option SampleEvent)
    (hf : s.steam.flush ≠ .opened) :
    let x := s.sampledPhase t cap ahead
    x.seq = s.seq ∧ x.steam = s.steam ∧ x.config.header = s.config.header ∧
    x.config.banks = s.config.banks := by
  obtain ⟨hseq, hsteam⟩ := State.sampledAt_unopened t ahead hf
  exact ⟨hseq, hsteam, by simp [State.sampledPhase], by simp [State.sampledPhase]⟩

/-! ### APPLY_END -/

/-- APPLY_END in SEEK or TIGHTEN, no flush being open (R35). -/
theorem State.atApplyEnd_unfinished {s : State}
    (hc : s.seq.cycle = .closing .seek ∨ s.seq.cycle = .closing .tighten)
    (hf : s.steam.flush ≠ .opened) :
    s.atApplyEnd = { s with
      closing := if s.closing.phase.running then
          { s.closing with phase := .parked, command := .stop, sent := s.closing.sent ++ [.stop] }
        else s.closing
      seq := { s.seq with
        cycle := .ended
        record := s.seq.record.map fun r => { r with capVerdict := some .unfinished } } } := by
  rcases hc with hc | hc <;>
    simp [State.atApplyEnd, hc, State.shutRequest, hf, State.onClosing, Closing.stop, Closing.park,
      Closing.inForce, State.endCycle, State.onRecord, State.withSeq, State.withClosing]

/-- APPLY_END passes DWELL and every cycle that is not CLOSING (R20, R35). -/
theorem State.atApplyEnd_passed {s : State}
    (h : s.seq.cycle = .closing .dwell ∨ s.seq.cycle.isClosing = false) : s.atApplyEnd = s := by
  unfold State.atApplyEnd
  split
  next hc => simp [hc, CycleState.isClosing] at h
  next hc => simp [hc, CycleState.isClosing] at h
  next => rfl

/-- Settles O26: the verdict with any sample ahead, the closing unit with one that seats, and the cycles that
APPLY_END passes. -/
theorem applyEndUnfinished : Obligations.ApplyEndUnfinished := by
  intro s t cap ahead h w x unfinished applies
  have hends (hc : applies) (hf : s.steam.flush ≠ .opened) :
      exec (.phaseBoundary ⟨t, ahead⟩ cap) s = .next { x with
        closing := if x.closing.phase.running then
            { x.closing with phase := .parked, command := .stop, sent := x.closing.sent ++ [.stop] }
          else x.closing
        seq := unfinished } := by
    obtain ⟨hseq, hsteam, -⟩ := State.sampledPhase_frame t cap ahead hf
    have hat := State.atApplyEnd_unfinished (s := x) (by rwa [hseq]) (by rwa [hsteam])
    rw [exec_phaseBoundary_unapplied cap h (by rw [State.handBoundary, hat]; rfl), State.handBoundary, hat,
      hseq]
  refine ⟨hends, fun d l p engage hc hf ha hg hphase hl hp he hfinal hlow hhigh => ?_, fun hc => ?_⟩
  · obtain ⟨-, hseats, -⟩ := Closing.testPhase_tighten
      (c := (s.closing.afterGood t d).turned p d.torque d.angle) hl hphase he d.torque
    have hsampled := State.sampledAt_good (t := t) h.1 hg (by rw [hphase]; rfl)
      (by rw [Closing.handled_eq hp, hseats hfinal hlow hhigh]) (by simp)
    rw [hends hc hf]
    simp [x, w, ha, State.sampledPhase, hsampled, State.atPhase, ClosingState.running, Closing.turned,
      Closing.afterGood]
  · rw [exec_phaseBoundary_alone cap h, State.handBoundary]
    exact congrArg Host.Outcome.next (State.atApplyEnd_passed (by rwa [(s.atPhase_frame t cap).1]))

/-! ### RELEASE -/

/-- Settles O27: DWELL is made GOOD and posted, ENDED is posted; either leaves CLOSING. -/
theorem releasePosts : Obligations.ReleasePosts := by
  intro s t cap ahead r h hrecord hf
  obtain ⟨hseq, hsteam, hheader, hbanks⟩ := State.sampledPhase_frame t cap ahead hf
  refine ⟨fun hc => ?_, fun hc hverdict => ?_⟩
  · obtain ⟨x, hx⟩ : ∃ x, x = s.sampledPhase t cap ahead := ⟨_, rfl⟩
    rw [← hx] at hseq hsteam hheader hbanks
    have hat : x.handBoundary .release = x.makeGood.releaseAndPost := by
      simp [State.handBoundary, State.atRelease, hseq, hc]
    have hposted : x.makeGood.releaseAndPost.Posted x { r with
        capVerdict := some .good
        vPred := some (predictedVacuum s.config.header.pAmb (s.bankOf r.bank).tCool
          (s.bankOf r.bank).purge (r.temperature.getD 0) r.dose) } := by
      refine State.Posted.of_record (State.releaseAndPost_posted ?_ (by rwa [← hsteam] at hf))
      simp [State.makeGood, State.onRecord, hseq, hrecord, State.bankOf, hheader, hbanks]
    rw [hx] at hat hposted
    refine ⟨_, exec_phaseBoundary_unapplied cap h ?_, by rwa [hat],
      fun d l hreached ha hg hphase hl hlow hslip => ?_⟩
    · rw [hat, hposted.sequencer]
      rfl
    · obtain ⟨-, hends, -⟩ := Closing.testPhase_dwell (c := s.closing.handled t d) hl hphase d.torque
      have hsampled := State.sampledAt_good (t := t) h.1 hg (by rw [hphase]; rfl) (hends hlow hslip)
        (by simp)
      have hclosing : (s.sampledPhase t cap ahead).closing = (s.closing.handled t d).ended := by
        simp [State.sampledPhase, ha, hsampled]
      rw [hat, hposted.spindle, hclosing, ← hx, hseq, hreached]
      simp [Closing.ended, Closing.handled, Closing.accumulate, Closing.updatePeak, Closing.afterGood]
  · have hat : (s.sampledPhase t cap ahead).handBoundary .release =
        (s.sampledPhase t cap ahead).releaseAndPost := by
      simp [State.handBoundary, State.atRelease, hseq, hc]
    have hposted := State.releaseAndPost_posted (s := s.sampledPhase t cap ahead)
      (by rw [hseq, hrecord]) (by rwa [hsteam])
    refine ⟨_, exec_phaseBoundary_unapplied cap h ?_, by rwa [hat]⟩
    rw [hat, hposted.sequencer]
    rfl

end Sys2Proof.Machine
end

section
/-! The valve's feedback and its settle time (R46 to R50, R57, R58), and what a head hears of its peers
(R60, R62). -/

namespace Sys2Proof.Machine

/-- A change of the feedback is taken by the state of the valve (R46 to R50). -/
theorem exec_valveFeedbackChange {s : State} (t : Time) {shown : Bool} (hr : s.headRuns = true)
    (hp : s.pins.valveOpen ≠ shown) : exec (.valveFeedbackChange t shown) s = .next
      ((s.enter t).withPins { s.pins with valveOpen := shown }).feedbackChanged := by
  have hexec : exec (.valveFeedbackChange t shown) s = execValveFeedbackChange t shown s := rfl
  have hruns : ((s.enter t).withPins { s.pins with valveOpen := shown }).headRuns = true :=
    (s.enter_runs t).1.trans hr
  simp [hexec, execValveFeedbackChange, hp, hruns]

/-- The settle timer runs while the command and the feedback differ (R46). -/
theorem State.settleNow_eq (s : State) : s.settleNow =
    if s.steam.commandOpen = s.pins.valveOpen then none else some (s.steam.settle.getD s.timeBase) := by
  simp only [State.settleNow, State.valveDisagrees, bne_iff_ne, ne_eq, ite_not]

/-- A valve that stays in its state at a change of the feedback changes its settle timer alone (R46). -/
theorem State.feedbackChanged_stays {s : State}
    (hv : s.steam.valve = .opened ∨ s.steam.valve = .shut ∨ s.steam.valve = .faultShut) :
    s.feedbackChanged = s.withSteam { s.steam with settle := s.settleNow } := by
  unfold State.feedbackChanged
  rcases hv with hv | hv | hv <;> simp only [hv]

/-- Settles O28: by the state of the valve and the level shown. -/
theorem valveFeedbackFollows : Obligations.ValveFeedbackFollows := by
  intro s t shown hr w runs run e
  have hexec : exec (.valveFeedbackChange t shown) s = execValveFeedbackChange t shown s := rfl
  refine ⟨fun hp => by simp [e, hexec, execValveFeedbackChange, hp], fun hp => ?_⟩
  obtain ⟨x, hx⟩ : ∃ x, x = (s.enter t).withPins { s.pins with valveOpen := shown } := ⟨_, rfl⟩
  have hxw : x = w := hx
  have hsteam : x.steam = s.steam := by simp [hx]
  have hpins : x.pins.valveOpen = shown := by simp [hx]
  have htime : x.timeBase = t := by simp [hx]
  have he : e = .next x.feedbackChanged := by rw [hx]; exact exec_valveFeedbackChange t hr hp
  have hstays (hv : s.steam.valve = .opened ∨ s.steam.valve = .shut ∨ s.steam.valve = .faultShut) :
      x.feedbackChanged = x.withSteam
        { s.steam with settle := if s.steam.commandOpen = shown then none else runs } := by
    rw [State.feedbackChanged_stays (by rwa [hsteam]), State.settleNow_eq, hsteam, hpins, htime]
  simp only [he, run, ← hxw]
  refine ⟨fun hv hs => ?_, fun hv hc hs => ?_, fun hv hc hs => ?_, fun hv hs => ?_, fun hv hc hs => ?_,
    fun hv hc hs => ?_, fun hv hc hs => ?_⟩
  · simp [State.feedbackChanged, hsteam, hv, hpins, hs, State.enterOpen, State.withSteam, State.firstTick,
      msTime, htime]
  · simp [hstays (.inl hv), hc, hs, State.withSteam]
  · simp [hstays (.inl hv), hc, hs, State.withSteam]
  · simp [State.feedbackChanged, hsteam, hv, hpins, hs, State.withSteam]
  · simp [hstays (.inr hv), hc, hs, State.withSteam]
  · simp [hstays (.inr hv), hc, hs, State.withSteam]
  · simp [State.feedbackChanged, hsteam, hv, hpins, hs, State.clearFault, State.withSteam,
      State.settleNow_eq, hc]

/-! ### The settle time -/

/-- A valve that enters a fault state is counted, and marks the record of an attached cycle (R57, R176). -/
theorem State.markValveFault_eq (s : State) : s.markValveFault = { s with
    config := { s.config with
      lifetime := { s.config.lifetime with three := s.config.lifetime.three + 1 } }
    counters := { s.counters with
      head := { s.counters.head with valveFaults := s.counters.head.valveFaults + 1 } }
    seq := { s.seq with record := s.seq.record.map fun r : Record =>
      if s.steam.attached then { r with valveFault := true } else r } } := by
  unfold State.markValveFault
  by_cases ha : s.steam.attached = true <;>
    simp [ha, State.countHead, State.countLifetime, State.onRecord, State.withSeq, State.withCounters,
      State.withConfig]

/-- Settles O29: by what the valve is commanded to, once s_v is over. -/
theorem settleTimeFaults : Obligations.SettleTimeFaults := by
  intro s t t1 hr hs due w faulty full e
  have hruns : (s.enter t).headRuns = true := (s.enter_runs t).1.trans hr
  have hdue : (s.enter t).settleDue = true ↔ due := by simp [State.settleDue, hs, reached, due, msTime]
  have hexec : e = .next (if (s.enter t).settleDue = true then (s.enter t).settleExpired else s.enter t) := by
    have hrule : exec (.settleTimerExpiry t) s = execSettleTimerExpiry t s := rfl
    simp [e, hrule, execSettleTimerExpiry, hruns]
  refine ⟨fun hd => ?_, fun hd hv hf => ?_, fun hd hv => ?_⟩
  · rw [hexec, if_neg (by rwa [hdue])]
  · have hexpired : (s.enter t).settleExpired = (s.enter t).enterFaultShut := by
      rcases hv with hv | hv <;> simp [State.settleExpired, hv]
    rw [hexec, if_pos (hdue.mpr hd), hexpired]
    simp [State.enterFaultShut, State.markValveFault_eq, State.closeFlush_eq, hf, State.withSteam,
      Function.comp_def, faulty, w, full]
  · have hexpired : (s.enter t).settleExpired = (s.enter t).enterFaultOpen := by
      rcases hv with hv | hv | hv <;> simp [State.settleExpired, hv]
    rw [hexec, if_pos (hdue.mpr hd), hexpired]
    simp [State.enterFaultOpen, State.markValveFault_eq, State.withSteam, faulty, w, State.firstTick,
      msTime, and_assoc]

/-! ### The roster -/

/-- A running head hears a peer (R60). -/
theorem State.hearPeer_head {s : State} (t : Time) (p : Address) (st : RosterState)
    (hr : s.headRuns = true) : (s.enter t).hearPeer p st = { s.enter t with
      steam := { s.steam with
        roster := s.steam.roster.map fun e => if e.peer = p.toNat then { e with state := st } else e } } := by
  have hruns : (s.enter t).headRuns = true := (s.enter_runs t).1.trans hr
  simp [State.hearPeer, hruns, State.setRoster, State.withSteam]

/-- The fault-state bytes 1, 2 and 3 each give a roster state, and no other byte does (section 6.7). -/
theorem faultRoster_codes :
    faultRoster 1 = some .stuck ∧ faultRoster 2 = some .closed ∧ faultRoster 3 = some .closed ∧
    ∀ f : Byte, f = 0 ∨ 3 < f.toNat → faultRoster f = none := by
  refine ⟨by decide, by decide, by decide, fun f hf => ?_⟩
  have hopen : f ≠ 1#8 := by rintro rfl; revert hf; decide
  have hshut : f ≠ 2#8 := by rintro rfl; revert hf; decide
  have hclear : f ≠ 3#8 := by rintro rfl; revert hf; decide
  simp [faultRoster, ValveFaultState.code, hopen, hshut, hclear]

/-- Settles O31: each notice received runs on the peer's entry, the receive path taking nothing else. -/
theorem rosterFollowsNotices : Obligations.RosterFollowsNotices := by
  intro s t p join hr hlink hpend hown becomes
  have hears (st : RosterState) : (s.enter t).hearPeer p st = _ := State.hearPeer_head t p st hr
  have hopen : exec (.steamOpenReceived t p) s =
      becomes (.opened (t + BitVec.ofNat 32 (s.config.header.rosterMs * 1000))) := by
    have hexec : exec (.steamOpenReceived t p) s = execSteamOpenReceived t p s := rfl
    rw [hexec, execSteamOpenReceived, State.receive_taken t hlink hpend hown, hears]
    · simp [becomes, msTime]
    · intro x b
      exact x.hearPeer_pend b p _
  have hshut : exec (.steamShutReceived t p) s = becomes .closed :=
    congrArg Host.Outcome.next ((State.receive_taken t hlink hpend hown
      fun x b => x.hearPeer_pend b p .closed).trans (hears .closed))
  have hfault (f : Byte) (st : RosterState) (hf : faultRoster f = some st) :
      exec (.valveFaultReceived t p f) s = becomes st := by
    have hexec : exec (.valveFaultReceived t p f) s = execValveFaultReceived t p f s := rfl
    simp only [hexec, execValveFaultReceived, hf]
    rw [State.receive_taken t hlink hpend hown fun x b => x.hearPeer_pend b p st, hears]
  obtain ⟨hstuck, hstuckShut, hcleared, hnone⟩ := faultRoster_codes
  refine ⟨hopen, hshut, hfault _ _ hstuck, hfault _ _ hstuckShut, hfault _ _ hcleared, fun f hf => ?_,
    fun hp => ?_, fun habsent => ?_⟩
  · have hexec : exec (.valveFaultReceived t p f) s = execValveFaultReceived t p f s := rfl
    simp only [hexec, execValveFaultReceived, hnone f hf]
    rw [State.receive_taken t hlink hpend hown fun _ _ => rfl]
  · have hnode : (p == checkAddress) = false := by simpa [checkAddress] using hp
    have hjoin : (s.enter t).hearJoin p = (s.enter t).hearPeer p .closed := by
      have hruns : (s.enter t).headRuns = true := (s.enter_runs t).1.trans hr
      simp [State.hearJoin, State.hearPeer, hruns, hnode]
    rw [exec_joinReceived t join hlink hpend hown, hjoin, hears]
  · have hmap : s.steam.roster.map (fun e => if e.peer = p.toNat then { e with
        state := .opened (t + BitVec.ofNat 32 (s.config.header.rosterMs * 1000)) } else e) =
        s.steam.roster := by
      conv_rhs => rw [← List.map_id s.steam.roster]
      exact List.map_congr_left fun e he => if_neg (habsent e he)
    rw [hopen]
    have hsteam : s.steam = (s.enter t).steam := by simp
    simp only [becomes, hmap]
    rw [hsteam]

end Sys2Proof.Machine
end

section
/-! The vacuum calculator (R92 to R101): the vapour pressure, the residual fraction and the prediction. -/

namespace Sys2Proof.Machine

/-! ### The vapour pressure -/

/-- The table of section 5.2 rises from point to point. -/
theorem vapourTable_rises (j : Nat) (h : j < 10) : vapourTable.getD j 0 ≤ vapourTable.getD (j + 1) 0 := by
  interval_cases j <;> decide

/-- The vapour pressure within an interval of the table (R92). -/
theorem vapourPressure_between {j f : Nat} (hj : j < 10) (hf : f < 100) :
    vapourPressure (100 * j + f) = vapourTable.getD j 0 +
      ((vapourTable.getD (j + 1) 0 - vapourTable.getD j 0) * f + 50) / 100 := by
  have hdiv : (100 * j + f) / 100 = j := by omega
  simp only [vapourPressure, hdiv, if_neg (Nat.not_le.mpr hj), Nat.add_sub_cancel_left]

theorem vapourPressure_above {t : Nat} (h : 1000 ≤ t) : vapourPressure t = 1013 :=
  if_pos (by omega)

/-- A rounded share of a difference is no more than the difference. -/
theorem rounded_le (a : Nat) {f w : Nat} (hf : f ≤ w) (hw : 0 < w) : (a * f + w / 2) / w ≤ a := by
  have hmul : a * f ≤ a * w := Nat.mul_le_mul_left a hf
  have hlt : a * f + w / 2 < (a + 1) * w := by
    rw [Nat.add_mul]
    omega
  exact Nat.le_of_lt_succ ((Nat.div_lt_iff_lt_mul hw).mpr hlt)

/-- In an interval of the table the pressure lies between the interval's ends (R92). -/
theorem vapourPressure_bounds {j f : Nat} (hj : j < 10) (hf : f < 100) :
    vapourTable.getD j 0 ≤ vapourPressure (100 * j + f) ∧
    vapourPressure (100 * j + f) ≤ vapourTable.getD (j + 1) 0 := by
  have hrises := vapourTable_rises j hj
  have hshare := rounded_le (vapourTable.getD (j + 1) 0 - vapourTable.getD j 0) hf.le (by omega)
  rw [vapourPressure_between hj hf]
  omega

/-- One tenth of a degree more is no less pressure (R92). -/
theorem vapourPressure_step (t : Nat) : vapourPressure t ≤ vapourPressure (t + 1) := by
  obtain ⟨j, f, hf, rfl⟩ : ∃ j f, f < 100 ∧ t = 100 * j + f := ⟨t / 100, t % 100, by omega, by omega⟩
  by_cases hj : j < 10
  · by_cases hlast : f + 1 < 100
    · rw [Nat.add_assoc, vapourPressure_between hj hf, vapourPressure_between hj hlast]
      gcongr
      omega
    · have hnext : 100 * j + f + 1 = 100 * (j + 1) + 0 := by omega
      refine (vapourPressure_bounds hj hf).2.trans ?_
      rw [hnext]
      by_cases hj' : j + 1 < 10
      · exact (vapourPressure_bounds hj' (by omega)).1
      · have hten : j = 9 := by omega
        subst hten
        decide
  · rw [vapourPressure_above (by omega), vapourPressure_above (by omega)]

theorem vapourPressure_mono : Monotone vapourPressure := monotone_nat_of_le_succ vapourPressure_step

/-- Settles O38: the points, the intervals and the order. -/
theorem vapourPressureLaw : Obligations.VapourPressureLaw := by
  refine ⟨fun j hj => ?_, fun j f hj hf => vapourPressure_bounds hj hf,
    fun t1 t2 h _ => vapourPressure_mono h, by decide, by decide⟩
  interval_cases j <;> decide

/-! ### The residual fraction -/

/-- The interpolated fraction between two points (R96). -/
def interpolated (p q : Nat × Nat) (d : Nat) : Nat :=
  p.2 - ((p.2 - q.2) * (d - p.1) + (q.1 - p.1) / 2) / (q.1 - p.1)

/-- Between two points the fraction lies between theirs (R96). -/
theorem interpolated_bounds {p q : Nat × Nat} {d : Nat} (hpq : p.1 < q.1) (hfall : q.2 ≤ p.2)
    (hd : d < q.1) : q.2 ≤ interpolated p q d ∧ interpolated p q d ≤ p.2 := by
  have hshare := rounded_le (p.2 - q.2) (f := d - p.1) (w := q.1 - p.1) (by omega) (by omega)
  refine ⟨?_, Nat.sub_le _ _⟩
  calc q.2 = p.2 - (p.2 - q.2) := by omega
    _ ≤ interpolated p q d := Nat.sub_le_sub_left hshare p.2

theorem interpolated_anti (p q : Nat × Nat) {d1 d2 : Nat} (h : d1 ≤ d2) :
    interpolated p q d2 ≤ interpolated p q d1 := by
  unfold interpolated
  gcongr

/-- At or below its first point an interval holds the point's own fraction (R96). -/
theorem interpolated_first {p q : Nat × Nat} {d : Nat} (hpq : p.1 < q.1) (hd : d ≤ p.1) :
    interpolated p q d = p.2 := by
  have hzero : d - p.1 = 0 := by omega
  have hhalf : (q.1 - p.1) / 2 / (q.1 - p.1) = 0 := Nat.div_eq_of_lt (by omega)
  simp [interpolated, hzero, hhalf]

theorem residualFrom_cons (d : Nat) (p q : Nat × Nat) (rest : List (Nat × Nat)) :
    residualFrom d p (q :: rest) = if d < q.1 then interpolated p q d else residualFrom d q rest := rfl

theorem purgeOk_cons {p q : Nat × Nat} {rest : List (Nat × Nat)} :
    purgeOk (p :: q :: rest) = true ↔
      (p.1 < q.1 ∧ q.2 ≤ p.2 ∧ p.2 ≤ 1024) ∧ purgeOk (q :: rest) = true := by
  simp [purgeOk]

/-- The first point's fraction is one of the interpolated cases (R96). -/
theorem residualFraction_cons {p : Nat × Nat} {rest : List (Nat × Nat)}
    (h : purgeOk (p :: rest) = true) (d : Nat) : residualFraction (p :: rest) d = residualFrom d p rest := by
  simp only [residualFraction]
  split
  next hd =>
    cases rest with
    | nil => rfl
    | cons q rest =>
      obtain ⟨⟨hpq, -⟩, -⟩ := purgeOk_cons.mp h
      rw [residualFrom_cons, if_pos (by omega), interpolated_first hpq hd]
  next => rfl

/-- The fraction from a point on is no more than the point's (R95, R96). -/
theorem residualFrom_le {p : Nat × Nat} {rest : List (Nat × Nat)} (h : purgeOk (p :: rest) = true)
    (d : Nat) : residualFrom d p rest ≤ p.2 := by
  induction rest generalizing p with
  | nil => exact le_refl p.2
  | cons q rest ih =>
    obtain ⟨⟨hpq, hfall, -⟩, hrest⟩ := purgeOk_cons.mp h
    rw [residualFrom_cons]
    split
    next hd => exact (interpolated_bounds hpq hfall hd).2
    next => exact (ih hrest).trans hfall

/-- The fraction does not rise with the dose (R95, R96). -/
theorem residualFrom_anti {p : Nat × Nat} {rest : List (Nat × Nat)} (h : purgeOk (p :: rest) = true)
    {d1 d2 : Nat} (hd : d1 ≤ d2) : residualFrom d2 p rest ≤ residualFrom d1 p rest := by
  induction rest generalizing p with
  | nil => exact le_refl p.2
  | cons q rest ih =>
    obtain ⟨⟨hpq, hfall, -⟩, hrest⟩ := purgeOk_cons.mp h
    rw [residualFrom_cons, residualFrom_cons]
    by_cases h2 : d2 < q.1
    · rw [if_pos h2, if_pos (by omega)]
      exact interpolated_anti p q hd
    · rw [if_neg h2]
      split
      next h1 => exact (residualFrom_le hrest d2).trans (interpolated_bounds hpq hfall h1).1
      next => exact ih hrest

/-- The points after a point have greater doses (R95). -/
theorem purgeOk_ascends {p a : Nat × Nat} {rest : List (Nat × Nat)} (h : purgeOk (p :: rest) = true)
    (ha : a ∈ rest) : p.1 < a.1 := by
  induction rest generalizing p with
  | nil => simp at ha
  | cons q rest ih =>
    obtain ⟨⟨hpq, -⟩, hrest⟩ := purgeOk_cons.mp h
    rcases List.mem_cons.mp ha with rfl | hmem
    · exact hpq
    · exact hpq.trans (ih hrest hmem)

/-- The points up to the last one not above the dose do not count (R96). -/
theorem residualFraction_append {front rest : List (Nat × Nat)} {a : Nat × Nat} {d : Nat}
    (h : purgeOk (front ++ a :: rest) = true) (hd : a.1 ≤ d) :
    residualFraction (front ++ a :: rest) d = residualFrom d a rest := by
  induction front with
  | nil => exact residualFraction_cons h d
  | cons p front ih =>
    obtain ⟨q, tail, htail⟩ : ∃ q tail, front ++ a :: rest = q :: tail := by
      cases front <;> exact ⟨_, _, rfl⟩
    rw [List.cons_append, htail] at h ⊢
    obtain ⟨-, hrest⟩ := purgeOk_cons.mp h
    have hq : q.1 ≤ a.1 := by
      have hmem : a ∈ q :: tail := by rw [← htail]; simp
      rcases List.mem_cons.mp hmem with rfl | hin
      · exact le_refl _
      · exact (purgeOk_ascends hrest hin).le
    rw [residualFraction_cons h, residualFrom_cons, if_neg (by omega), ← residualFraction_cons hrest,
      ← htail]
    exact ih (by rwa [htail])

/-- The points from a point on are a table of their own (R95). -/
theorem purgeOk_suffix {front rest : List (Nat × Nat)} (h : purgeOk (front ++ rest) = true) :
    purgeOk rest = true := by
  induction front with
  | nil => exact h
  | cons p front ih =>
    refine ih ?_
    rw [List.cons_append] at h
    cases hall : front ++ rest with
    | nil => rfl
    | cons q tail =>
      rw [hall] at h
      exact (purgeOk_cons.mp h).2

/-- A point's own dose gives its own fraction (R96). -/
theorem residualFrom_self {p : Nat × Nat} {rest : List (Nat × Nat)} (h : purgeOk (p :: rest) = true) :
    residualFrom p.1 p rest = p.2 := by
  cases rest with
  | nil => rfl
  | cons q rest =>
    obtain ⟨⟨hpq, -⟩, -⟩ := purgeOk_cons.mp h
    rw [residualFrom_cons, if_pos hpq, interpolated_first hpq (le_refl _)]

/-! ### The prediction -/

/-- A greater residual fraction predicts no greater vacuum (R97 to R99). -/
theorem predicted_anti (pAmb tCool t dry : Nat) {r1 r2 : Nat} (h : r2 ≤ r1) :
    clampNat 0 pAmb ((pAmb : Int) - cooledAir (airAtSeal r1 dry) tCool t - vapourPressure tCool) ≤
      clampNat 0 pAmb ((pAmb : Int) - cooledAir (airAtSeal r2 dry) tCool t - vapourPressure tCool) := by
  have hsealed : airAtSeal r2 dry ≤ airAtSeal r1 dry := by
    unfold airAtSeal
    gcongr
  have hcooled : cooledAir (airAtSeal r2 dry) tCool t ≤ cooledAir (airAtSeal r1 dry) tCool t := by
    unfold cooledAir
    gcongr
  unfold clampNat
  omega

/-- Settles O39: the fraction point by point, then the stages in their order. -/
theorem predictedVacuumLaw : Obligations.PredictedVacuumLaw := by
  intro pAmb tCool t purge hok hne r vp pv dry sealed cooled
  obtain ⟨p, rest, hpurge⟩ := List.exists_cons_of_ne_nil hne
  have hanti (d1 d2 : Nat) (h : d1 ≤ d2) : r d2 ≤ r d1 := by
    simp only [r, hpurge]
    rw [hpurge] at hok
    rw [residualFraction_cons hok, residualFraction_cons hok]
    exact residualFrom_anti hok h
  have hpv (t : Nat) (h : t ≤ 1000) : vapourPressure t = pv t := by
    by_cases hten : t / 100 = 10
    · simp only [vapourPressure, pv, hten]
      rfl
    · have hlow : ¬ 10 ≤ t / 100 := by omega
      simp only [vapourPressure, pv, if_neg hten, if_neg hlow]
      rfl
  refine ⟨fun first d hfirst hd => ?_, fun a ha => ?_, fun front a b back d hsplit ha hb => ?_,
    fun ht hcool d => ?_, hanti, fun d1 d2 h => predicted_anti _ _ _ _ (hanti d1 d2 h),
    fun last d hlast hd => ?_, fun d => min_le_left _ _⟩
  · obtain rfl : p = first := by simpa [hpurge] using hfirst
    simp only [r, hpurge, residualFraction, if_pos hd]
  · obtain ⟨front, back, hsplit⟩ := List.append_of_mem ha
    rw [hsplit] at hok
    simp only [r, hsplit]
    rw [residualFraction_append hok (le_refl _), residualFrom_self (purgeOk_suffix hok)]
  · rw [hsplit] at hok
    simp only [r, hsplit]
    rw [residualFraction_append hok ha, residualFrom_cons, if_pos hb]
    rfl
  · have hdry : dryPressure pAmb t = dry := by
      simp only [dryPressure, dry, hpv t ht]
      split <;> omega
    simp only [predictedVacuum, hdry, hpv tCool (by omega), clampNat]
    have hcooled : cooledAir (airAtSeal (residualFraction purge d) dry) tCool t = cooled d := rfl
    rw [hcooled]
    omega
  · have hend : purge.dropLast ++ [last] = purge := List.dropLast_append_getLast? last hlast
    have hat (d : Nat) (h : last.1 ≤ d) : r d = last.2 := by
      rw [← hend] at hok
      simp only [r]
      rw [← hend, residualFraction_append hok h]
      rfl
    refine ⟨hat d hd, ?_⟩
    have hsame : residualFraction purge d = residualFraction purge last.1 :=
      (hat d hd).trans (hat last.1 (le_refl _)).symm
    simp only [predictedVacuum, hsame]

end Sys2Proof.Machine
end

section
/-! Frames (R105, R106, R111 to R113, R120): what is formed is read back, and raises the row of its kind. -/

namespace Sys2Proof.Machine

/-- The start of a frame's remaining bits is taken whole, its sync bits removed (R105). -/
theorem takeBits_front {n : Nat} {xs : List Bool} (hn : xs.length = n) (ys tl : List Bool) {k : Nat}
    (hk : k < 8) : takeBits n k (insertSync k (xs ++ ys) ++ tl) =
      some (xs, (k + n) % 8, insertSync ((k + n) % 8) ys ++ tl) := by
  rw [← hn]
  exact takeBits_insertSync xs ys tl k hk

/-- The sender and the length of a frame (R105). -/
def addressing (sender : Address) (payload : List Byte) : List Bool :=
  bitsOf 5 sender.toNat ++ bitsOf 5 payload.length

/-- The bits of a frame in the parts that its receiver takes them in (R105, R106, R111). -/
theorem frameAfterStart_parts (kind : Nat) (sender : Address) (payload : List Byte) :
    let crc := crc16 (bitsOf 4 kind ++ addressing sender payload ++ bitsOfBytes payload)
    frameAfterStart kind sender payload =
      insertSync 0 (bitsOf 4 kind ++ (addressing sender payload ++
        (bitsOfBytes payload ++ (bitsOf 16 crc.toNat ++ [])))) ++ [true, true] := by
  simp [frameAfterStart, frameCore, addressing]

/-- A word is spelt by its own bits. -/
theorem ofNat_natOfBits {w : Nat} (x : BitVec w) : BitVec.ofNat w (natOfBits (bitsOf w x.toNat)) = x := by
  rw [natOfBits_bitsOf, Nat.mod_eq_of_lt x.isLt, BitVec.ofNat_toNat, BitVec.setWidth_eq]

theorem addressing_fields (sender : Address) {payload : List Byte} (h : payload.length < 32) :
    (addressing sender payload).length = 10 ∧
    BitVec.ofNat 5 (natOfBits ((addressing sender payload).take 5)) = sender ∧
    natOfBits ((addressing sender payload).drop 5) = payload.length := by
  have htake : (addressing sender payload).take 5 = bitsOf 5 sender.toNat := by simp [addressing]
  have hdrop : (addressing sender payload).drop 5 = bitsOf 5 payload.length := by simp [addressing]
  rw [htake, hdrop, ofNat_natOfBits, natOfBits_bitsOf]
  exact ⟨by simp [addressing], rfl, Nat.mod_eq_of_lt h⟩

/-- A frame whose payload has the length of its kind is read back whole (R105, R106, R111). -/
theorem readFrame_frameAfterStart {kind : Nat} (sender : Address) {payload : List Byte}
    (hkind : kind < 16) (hlength : lengthOfKind kind = some payload.length) :
    readFrame (frameAfterStart kind sender payload) = .valid kind sender payload := by
  have hshort : payload.length ≤ 17 := lengthOfKind_le hlength
  have hkinds : natOfBits (bitsOf 4 kind) = kind := by
    rw [natOfBits_bitsOf]
    exact Nat.mod_eq_of_lt hkind
  obtain ⟨hten, hsender, hcount⟩ := addressing_fields sender (payload := payload) (by omega)
  have hmod : (6 + 8 * payload.length) % 8 = 6 := by omega
  rw [frameAfterStart_parts]
  obtain ⟨c, hc⟩ : ∃ c, c = crc16 (bitsOf 4 kind ++ addressing sender payload ++ bitsOfBytes payload) :=
    ⟨_, rfl⟩
  unfold readFrame
  rw [← hc, takeBits_front (n := 4) (by simp) _ _ (by decide)]
  simp only [hkinds, hlength]
  rw [takeBits_front hten _ _ (by decide)]
  simp only [hcount, if_neg (show ¬ 20 < payload.length by omega), ne_eq, not_true_eq_false, if_false]
  rw [takeBits_front (bitsOfBytes_length payload) _ _ (by decide), hmod]
  dsimp only
  rw [takeBits_front (n := 16) (by simp) _ _ (by decide)]
  simp only [hsender, ofNat_natOfBits, ← hc, bytesOfBits_bitsOfBytes, insertSync,
    not_true_eq_false, if_false, List.nil_append, List.headD_cons, List.tail_cons, Bool.and_self, if_true]

/-- A frame's length: start, core, CRC, the sync bits among them, and the end bits (R105). -/
theorem frameAfterStart_length (kind : Nat) (sender : Address) (payload : List Byte) :
    (frameAfterStart kind sender payload).length = 35 + 9 * payload.length := by
  rw [frameAfterStart_parts, List.length_append, insertSync_length _ _ (by decide)]
  simp [addressing, bitsOfBytes_length]
  omega

/-! ### The row of a frame -/

/-- A frame read back is a duplicate address in the node that it names, and raises the row of its kind in any
other (R112, R113). -/
theorem frameRow_valid {kind : Nat} {a : Address} {payload : List Byte} {bits : List Bool} (t : Time)
    (own : Address) (h : readFrame bits = .valid kind a payload) :
    (a = own → frameRow t own bits = some (.duplicateAddress t)) ∧
    (a ≠ own → frameRow t own bits = noticeRow t kind a payload) := by
  simp only [frameRow, h]
  exact ⟨fun hown => if_pos (by simpa using hown), fun hown => if_neg (by simpa using hown)⟩

/-- The row of a COMMAND by its op byte (section 6.7, R177). -/
theorem commandRow_eq (t : Time) (a : Address) (op : Byte) (mask : BitVec 32) (arg : Byte) :
    let raised := commandRow t a op mask arg
    (op = 1 → raised = .selectBank t a mask arg) ∧ (op = 2 → raised = .lock t a mask arg) ∧
    (op = 3 → raised = .restore t a mask arg) ∧ (op = 4 → raised = .trimReset t a mask arg) ∧
    (op = 5 → raised = .clearCounts t a mask arg) ∧ (op = 6 → raised = .report t a mask arg) ∧
    (op = 7 → raised = .releaseStop t a mask arg) ∧
    (op = 0 ∨ 7 < op.toNat → raised = .commandOpUnknown t a mask op arg) := by
  refine ⟨?_, ?_, ?_, ?_, ?_, ?_, ?_, fun hop => ?_⟩
  case refine_8 =>
    have hunknown (k : Nat) (hk : 1 ≤ k ∧ k ≤ 7) : op.toNat ≠ k := by
      rcases hop with rfl | hop
      · simp
        omega
      · omega
    unfold commandRow
    split
    case h_8 => rfl
    all_goals
      next hk => exact absurd hk (hunknown _ (by decide))
  all_goals
    rintro rfl
    rfl

/-- The bytes of a COMMAND's mask stand in it in their order (section 6.7). -/
theorem commandPayload_bytes (op b1 b2 b3 b4 arg : Byte) :
    commandPayload op (b1 ++ b2 ++ b3 ++ b4) arg = [op, b1, b2, b3, b4, arg] := by
  have hmask : (b1 ++ b2 ++ b3 ++ b4 : BitVec 32).toNat =
      ((b1.toNat * 256 + b2.toNat) * 256 + b3.toNat) * 256 + b4.toNat := by
    rw [toNat_append_add, toNat_append_add, toNat_append_add]
    rfl
  have hbyte (b : Byte) (x : Nat) (h : x % 256 = b.toNat) : BitVec.ofNat 8 x = b :=
    BitVec.eq_of_toNat_eq (by simpa using h)
  simp only [commandPayload, bytesOfCount, hmask, List.cons_append, List.nil_append, List.cons.injEq,
    true_and, and_true]
  refine ⟨hbyte _ _ ?_, hbyte _ _ ?_, hbyte _ _ ?_, hbyte _ _ ?_⟩ <;> omega

/-- Settles O40: a frame is formed of fields that are taken back one by one. -/
theorem frameRoundTrip : Obligations.FrameRoundTrip := by
  intro n a own t p bits frame
  have hkind : n.kind < 16 := n.kind_lt
  have hread : readFrame frame = .valid n.kind a n.payload :=
    readFrame_frameAfterStart a hkind n.payload_length
  obtain ⟨hown, hother⟩ := frameRow_valid t own hread
  refine ⟨hread, rfl, ?_, hown, fun ha => ?_, fun ha spare => ?_, fun ha op b1 b2 b3 b4 arg => ?_,
    fun why h => ?_⟩
  · simp [frameBits, frameAfterStart_length]
    omega
  · rw [hother ha]
    cases n
    case sealed q => exact congrArg (fun x => some (Instr.sealReceived t a x)) (readSeal_sealBytes q)
    case void q => exact congrArg (fun x => some (Instr.voidReceived t a x)) (readVoid_bytes q)
    case verdict q => exact congrArg (fun x => some (Instr.verdictReceived t a x)) (readVerdict_bytes q)
    case join q => exact congrArg (fun x => some (Instr.joinReceived t a x)) (readJoin_bytes q)
    all_goals rfl
  · have hlength : ((sealBytes p).set 2 (p.bank ++ spare ++ p.capVerdict)).length = 17 := rfl
    have hseal := readFrame_frameAfterStart (kind := 5) a (by decide) (congrArg some hlength).symm
    have hbyte : (p.bank ++ spare ++ p.capVerdict).toNat =
        (p.bank.toNat * 4 + spare.toNat) * 16 + p.capVerdict.toNat := by
      rw [toNat_append_add, toNat_append_add]
      rfl
    have hfields : readSeal ((sealBytes p).set 2 (p.bank ++ spare ++ p.capVerdict)) = p := by
      refine readSeal_set p _ ?_ ?_ <;> rw [hbyte] <;> omega
    exact ((frameRow_valid t own hseal).2 ha).trans
      (congrArg (fun x => some (Instr.sealReceived t a x)) hfields)
  · have hbytes := commandPayload_bytes op b1 b2 b3 b4 arg
    have hcommand := readFrame_frameAfterStart (kind := 4) (payload := [op, b1, b2, b3, b4, arg]) a
      (by decide) rfl
    have hraised := (frameRow_valid t own hcommand).2 ha
    have hmask : countField [op, b1, b2, b3, b4, arg] 1 = b1 ++ b2 ++ b3 ++ b4 := by
      rw [← hbytes, countField_commandPayload]
    have hrow : noticeRow t 4 a [op, b1, b2, b3, b4, arg] =
        some (commandRow t a op (b1 ++ b2 ++ b3 ++ b4) arg) := by
      rw [← hmask]
      rfl
    rw [hraised, hrow]
    simp only [Option.some.injEq]
    exact ⟨hbytes, commandRow_eq t a op _ arg⟩
  · simp only [frameRow, h]

end Sys2Proof.Machine
end

section
/-! The link controller's own commands (R105 to R114): frames that start, fail and end, MUTE, and what a
receiver counts. -/

namespace Sys2Proof.Machine

/-! ### What stands on the wire -/

theorem Link.sending_iff (l : Link) : l.sending = true ↔ ∃ e ∈ l.queue, e.inFlight = true := by
  simp [Link.sending]

/-- An ACTIVE link has a frame of its own on the wire. -/
theorem State.transmitting_enter (s : State) (t : Time) : (s.enter t).transmitting = true ↔
    s.link.state = .active ∧ ∃ e ∈ s.link.queue, e.inFlight = true := by
  simp [State.transmitting, Link.sending]

theorem waiting_none_inFlight (q : List QueueEntry) : (waitingOf q).any (·.inFlight) = false := by
  simp [waitingOf]

/-- A failed frame goes back to the queue, or goes for good when it is a STEAM-SHUT that a STEAM-OPEN has
overtaken (R108, R109, R118). -/
theorem Link.groundFrame_eq (l : Link) :
    l.groundFrame = { l with
      queue := if l.shutOvertaken = true ∧ ∃ e ∈ l.queue, e.inFlight = true ∧ e.notice = .steamShut then
          l.queue.filter fun e => !e.inFlight
        else l.queue.map fun e => { e with inFlight := false }
      wire := [], shutOvertaken := false } := by
  have hovertaken : (l.shutOvertaken && l.sendingShut) = true ↔
      l.shutOvertaken = true ∧ ∃ e ∈ l.queue, e.inFlight = true ∧ e.notice = .steamShut := by
    simp [Link.sendingShut]
  have hback : (l.queue.map fun e => { e with inFlight := false }).any (·.inFlight) = false := by
    simp
  unfold Link.groundFrame
  by_cases h : l.shutOvertaken = true ∧ ∃ e ∈ l.queue, e.inFlight = true ∧ e.notice = .steamShut
  · rw [if_pos (hovertaken.mpr h), if_pos h]
    simp only [Link.withQueue, waiting_none_inFlight]
    rfl
  · rw [if_neg (mt hovertaken.mp h), if_neg h]
    simp only [Link.withQueue, hback]
    rfl

/-- A frame that was sent leaves the queue and the wire (R110). -/
theorem Link.withWaiting_eq (l : Link) : l.withQueue (waitingOf l.queue) =
    { l with queue := l.queue.filter fun e => !e.inFlight, wire := [], shutOvertaken := false } := by
  simp only [Link.withQueue, waiting_none_inFlight]
  rfl

/-- An idle line starts the frame of the first entry (R107, R116). -/
theorem State.startFrame_begins {s : State} {e : QueueEntry} {rest : List QueueEntry}
    (ha : s.link.state = .active) (hq : s.link.queue = e :: rest) (hs : s.link.sending = false) :
    s.startFrame = s.withLink { s.link with
      queue := { e with inFlight := true } :: rest, wire := frameBits s.node.address e.notice
      shutOvertaken := false } := by
  simp [State.startFrame, hq, ha, hs, startFirst]

theorem State.startFrame_none {s : State}
    (h : s.link.state ≠ .active ∨ s.link.queue = [] ∨ s.link.sending = true) : s.startFrame = s := by
  unfold State.startFrame
  split
  next => rfl
  next hq =>
    refine if_neg ?_
    rcases h with h | h | h <;> simp_all

/-- Settles O41: by whether the link is ACTIVE and a frame of its own is on the wire. -/
theorem frameStartsAndEnds : Obligations.FrameStartsAndEnds := by
  intro s t w q sending overtaken
  have hstart : exec (.frameStart t) s = .next (s.enter t).frameOver.startFrame := rfl
  have hlost : exec (.contestLost t) s = .next
      (if (s.enter t).transmitting then (s.enter t).withLink (s.enter t).link.groundFrame
        else s.enter t) := rfl
  have hsent : exec (.frameSent t) s = .next
      (if (s.enter t).transmitting then (s.enter t).finishFrame else s.enter t) := rfl
  have htransmits := s.transmitting_enter t
  refine ⟨fun e rest ha hm hq hidle => ?_, fun hm hnone => ?_, fun ha hs => ⟨?_, fun hpage => ?_⟩,
    fun h => ?_⟩
  · have hquiet : (s.enter t).link.sending = false := by
      rw [Bool.eq_false_iff, ne_eq, Link.sending_iff]
      rintro ⟨x, hx, hf⟩
      simp [hidle x (by simpa using hx)] at hf
    rw [hstart, State.frameOver_idle _ (by simpa using hm),
      State.startFrame_begins (by simpa using ha) (by simpa using hq) hquiet]
    simp [State.withLink, w]
  · rw [hstart, State.frameOver_idle _ (by simpa using hm), State.startFrame_none]
    rw [Link.sending_iff]
    simpa using hnone
  · rw [hlost, if_pos (htransmits.mpr ⟨ha, hs⟩), Link.groundFrame_eq]
    simp [State.withLink, w, q, overtaken]
  · have hnone : (s.enter t).link.queue.any (fun e => e.inFlight && e.notice.isReport) = false := by
      rw [Bool.eq_false_iff, ne_eq, List.any_eq_true]
      rintro ⟨e, he, hreport⟩
      obtain ⟨hf, hreport⟩ := Bool.and_eq_true_iff.mp hreport
      cases hn : e.notice
      case report p a b c d => exact hpage e (by simpa using he) hf p a b c d hn
      all_goals simp [hn, Notice.isReport] at hreport
    rw [hsent, if_pos (htransmits.mpr ⟨ha, hs⟩)]
    simp only [State.finishFrame, hnone, Link.withWaiting_eq]
    simp [State.withLink, w, q]
  · have hquiet : ¬ (s.enter t).transmitting = true := by
      rw [htransmits]
      exact fun ⟨ha, hs⟩ => h.elim (fun h => h ha) fun h => h hs
    rw [hlost, hsent, if_neg hquiet, if_neg hquiet]
    exact ⟨rfl, rfl⟩

/-! ### Transmit errors -/

/-- A transmit error before any MUTE (R109). -/
def State.errored (s : State) : State := { s with
  link := { s.link.groundFrame with errors := min 16 (s.link.errors + 1) }
  counters := { s.counters with
    link := { s.counters.link with txErrors := s.counters.link.txErrors + 1 } } }

/-- The sixteenth error in a row is due a MUTE (R109, R114, log 15). -/
theorem State.failFrame_eq (s : State) (busy : Bool) : s.failFrame busy =
    if 15 ≤ s.link.errors then
      if busy then s.errored.withLink { s.errored.link with mutePending := true } else s.errored.muted
    else s.errored := by
  have herrors : s.link.groundFrame.errors = s.link.errors := by rw [Link.groundFrame_eq]
  have hcount : muteErrors ≤ min muteErrors (s.link.errors + 1) ↔ 15 ≤ s.link.errors := by
    unfold muteErrors
    omega
  simp only [State.failFrame, State.countLink, State.withCounters, State.withLink, herrors, hcount,
    State.enterMute_muted]
  rfl

/-- A frame at whose end a MUTE is due, taken by its command (log 15). -/
theorem exec_receives_pending {s : State} {t : Time} {a : Address} {f : State → State} {c : Instr}
    (hexec : exec c s = .next ((s.enter t).receive a f) ∧
      exec c s.unmuted = .next ((s.unmuted.enter t).receive a f))
    (hp : s.link.mutePending = true) (ha : s.link.state = .active)
    (hf : ∀ x b, f (State.pend b x) = (f x).pend b) (hs : ∀ x, (f x).link.state = x.link.state) :
    ∃ v, exec c s.unmuted = .next v ∧ (v.link.state = .active → exec c s = .next v.muted) ∧
      (v.link.state ≠ .active → exec c s = .next v) := by
  obtain ⟨hactive, hmute⟩ := s.receive_pending t a f hp ha hf hs
  exact ⟨_, hexec.2, fun h => hexec.1.trans (congrArg _ (hactive h)),
    fun h => hexec.1.trans (congrArg _ (hmute h))⟩

theorem frameIsBad_iff (bits : List Bool) : frameIsBad bits = true ↔ ∃ why, readFrame bits = .bad why := by
  unfold frameIsBad
  cases readFrame bits <;> simp

/-- Counting a discarded frame (R111). -/
def State.countDiscarded (s : State) : State := s.countLink fun c => { c with rxErrors := c.rxErrors + 1 }

/-- A discarded frame ends on the wire as a frame does whose sender is another node (R111, log 15). -/
theorem exec_rxFrameError {s : State} (t : Time) {bits : List Bool} (hbad : frameIsBad bits = true)
    {a : Address} (ha : a ≠ s.node.address) :
    exec (.rxFrameError t bits) s = .next ((s.enter t).receive a State.countDiscarded) := by
  have hexec : exec (.rxFrameError t bits) s = execRxFrameError t bits s := rfl
  simp [hexec, execRxFrameError, State.receive, hbad, ha, State.countDiscarded]

/-- A duplicate address ends on the wire as a frame does that names the node (R113). -/
theorem exec_duplicateAddress (s : State) (t : Time) :
    exec (.duplicateAddress t) s = .next ((s.enter t).receive s.node.address id) := by
  have hexec : exec (.duplicateAddress t) s = execDuplicateAddress t s := rfl
  simp [hexec, execDuplicateAddress, State.receive]

theorem exec_command_pending {s : State} {t : Time} {a : Address} {mask : BitVec 32} {op arg : Byte}
    {c : Instr} (hexec : exec c s = .next ((s.enter t).takeCommand a mask op arg) ∧
      exec c s.unmuted = .next ((s.unmuted.enter t).takeCommand a mask op arg))
    (hp : s.link.mutePending = true) (ha : s.link.state = .active) :
    ∃ v, exec c s.unmuted = .next v ∧ (v.link.state = .active → exec c s = .next v.muted) ∧
      (v.link.state ≠ .active → exec c s = .next v) :=
  exec_receives_pending hexec hp ha (fun x b => x.testCommand_pend b a mask op arg)
    fun x => x.testCommand_linkState a mask op arg

/-- What a head makes of a VALVE-FAULT of a peer (R60, R120). -/
def State.hearFault (s : State) (a : Address) (f : Byte) : State :=
  ((faultRoster f).map (s.hearPeer a)).getD s

theorem exec_valveFaultReceived (s : State) (t : Time) (a : Address) (f : Byte) :
    exec (.valveFaultReceived t a f) s = .next ((s.enter t).receive a fun x => x.hearFault a f) := by
  have hexec : exec (.valveFaultReceived t a f) s = execValveFaultReceived t a f s := rfl
  unfold State.hearFault
  cases hf : faultRoster f <;> simp only [hexec, execValveFaultReceived, hf] <;> rfl

theorem State.hearFault_pend (x : State) (b : Bool) (a : Address) (f : Byte) :
    (x.pend b).hearFault a f = (x.hearFault a f).pend b ∧ (x.hearFault a f).link.state = x.link.state := by
  unfold State.hearFault
  cases faultRoster f with
  | none => exact ⟨rfl, rfl⟩
  | some st => exact ⟨x.hearPeer_pend b a st, x.hearPeer_linkState a st⟩

/-- Every end of a frame that the node receives is taken as ever while a MUTE is due (log 15). -/
theorem exec_endsFrame_pending {s : State} {c : Instr} (hc : endsFrame c)
    (hp : s.link.mutePending = true) (ha : s.link.state = .active) :
    ∃ v, exec c s.unmuted = .next v ∧ (v.link.state = .active → exec c s = .next v.muted) ∧
      (v.link.state ≠ .active → exec c s = .next v) := by
  cases c
  case steamOpenReceived t a =>
    exact exec_receives_pending ⟨rfl, rfl⟩ hp ha (fun x b => x.hearPeer_pend b a _)
      fun x => x.hearPeer_linkState a _
  case steamShutReceived t a =>
    exact exec_receives_pending ⟨rfl, rfl⟩ hp ha (fun x b => x.hearPeer_pend b a _)
      fun x => x.hearPeer_linkState a _
  case valveFaultReceived t a f =>
    exact exec_receives_pending ⟨exec_valveFaultReceived s t a f, exec_valveFaultReceived s.unmuted t a f⟩
      hp ha (fun x b => (x.hearFault_pend b a f).1) fun x => (x.hearFault_pend true a f).2
  case joinReceived t a join =>
    exact exec_receives_pending ⟨rfl, rfl⟩ hp ha (fun x b => x.hearJoin_pend b a)
      fun x => x.hearJoin_linkState a
  case verdictReceived t a p =>
    refine exec_receives_pending ⟨rfl, rfl⟩ hp ha
      (fun x b => State.pend_ite Iff.rfl (x.matchVerdict_pend b p) rfl) fun x => ?_
    split <;> simp
  case sealReceived t a p =>
    refine exec_receives_pending ⟨rfl, rfl⟩ hp ha
      (fun x b => State.pend_ite Iff.rfl (x.takeSeal_pend b a p) rfl) fun x => ?_
    split <;> simp
  case voidReceived t a p =>
    refine exec_receives_pending ⟨rfl, rfl⟩ hp ha
      (fun x b => State.pend_ite Iff.rfl (x.takeVoid_pend b a p) rfl) fun x => ?_
    split <;> simp
  case duplicateAddress t =>
    exact exec_receives_pending ⟨exec_duplicateAddress s t, exec_duplicateAddress s.unmuted t⟩ hp ha
      (fun _ _ => rfl) fun _ => rfl
  case rxFrameError t bits =>
    have hbad := (frameIsBad_iff bits).mpr hc
    have hother : s.node.address + 1#5 ≠ s.node.address := by bv_omega
    exact exec_receives_pending ⟨exec_rxFrameError t hbad hother, exec_rxFrameError t hbad hother⟩ hp ha
      (fun _ _ => rfl) fun _ => rfl
  case selectBank => exact exec_command_pending ⟨rfl, rfl⟩ hp ha
  case lock => exact exec_command_pending ⟨rfl, rfl⟩ hp ha
  case restore => exact exec_command_pending ⟨rfl, rfl⟩ hp ha
  case trimReset => exact exec_command_pending ⟨rfl, rfl⟩ hp ha
  case clearCounts => exact exec_command_pending ⟨rfl, rfl⟩ hp ha
  case report => exact exec_command_pending ⟨rfl, rfl⟩ hp ha
  case releaseStop => exact exec_command_pending ⟨rfl, rfl⟩ hp ha
  case commandOpUnknown => exact exec_command_pending ⟨rfl, rfl⟩ hp ha
  all_goals exact hc.elim

/-- Settles O42: by the count of errors in a row, then by what ends the frame that a MUTE waits for. -/
theorem transmitErrorsMute : Obligations.TransmitErrorsMute := by
  intro s t w q sending overtaken failed
  have hexec (busy : Bool) : exec (.transmitError t busy) s = .next
      (if (s.enter t).transmitting then (s.enter t).failFrame busy else s.enter t) := rfl
  have htransmits := s.transmitting_enter t
  have hfailed : (s.enter t).errored = failed := by
    simp [State.errored, Link.groundFrame_eq, failed, w, q, overtaken]
  have herrors : (s.enter t).link.errors = s.link.errors := by simp
  refine ⟨fun busy h => ?_, fun busy ha hs hlow => ?_, fun ha hs hhigh => ?_, fun hp => ?_,
    fun c hc hp ha => exec_endsFrame_pending hc hp ha⟩
  · have hquiet : ¬ (s.enter t).transmitting = true := by
      rw [htransmits]
      exact fun ⟨ha, hs⟩ => h.elim (fun h => h ha) fun h => h hs
    rw [hexec, if_neg hquiet]
  · rw [hexec, if_pos (htransmits.mpr ⟨ha, hs⟩), State.failFrame_eq, herrors, if_neg (by omega), hfailed]
  · rw [hexec, hexec, if_pos (htransmits.mpr ⟨ha, hs⟩), if_pos (htransmits.mpr ⟨ha, hs⟩),
      State.failFrame_eq, State.failFrame_eq, herrors, if_pos hhigh, if_pos hhigh, hfailed]
    exact ⟨rfl, rfl⟩
  · have hstart : exec (.frameStart t) s = .next (s.enter t).frameOver.startFrame := rfl
    have hover : (s.enter t).frameOver = w.muted := by
      simp [State.frameOver, hp, State.enterMute_muted, w]
    rw [hstart, hover, State.startFrame_none (.inl (by simp [State.muted]))]

/-! ### Reception -/

/-- Settles O43: by the frame's tests and the state of the link. -/
theorem receptionFaults : Obligations.ReceptionFaults := by
  intro s t bits w hears
  have hreceives : s.link.receives = true ↔ hears := by simp [Link.receives, hears]
  have hframe : exec (.rxFrameError t bits) s = execRxFrameError t bits s := rfl
  have hduplicate : exec (.duplicateAddress t) s = execDuplicateAddress t s := rfl
  refine ⟨fun why hh hm hbad => ?_, fun k a p hvalid => ?_, fun ha => ?_, fun ha hm => ?_, fun hh => ?_⟩
  · have hbad' := (frameIsBad_iff bits).mpr ⟨why, hbad⟩
    simp [hframe, execRxFrameError, hreceives.mpr hh, hbad', State.frameOver, State.countLink, hm,
      State.withCounters, w]
  · have hgood : frameIsBad bits = false := by simp [frameIsBad, hvalid]
    simp [hframe, execRxFrameError, hgood, w]
  · have hmuted : w.enterMute.frameOver = w.muted := by
      rw [State.enterMute_muted, State.frameOver_idle _ rfl]
    simpa [hduplicate, execDuplicateAddress, hreceives.mpr (.inl ha), State.takeDuplicate, ha] using hmuted
  · simp [hduplicate, execDuplicateAddress, hreceives.mpr (.inr ha), State.takeDuplicate, ha,
      State.frameOver, hm, w]
  · have hdeaf : s.link.receives = false := Bool.eq_false_iff.mpr (mt hreceives.mp hh)
    have hopen (a : Address) : exec (.steamOpenReceived t a) s = execSteamOpenReceived t a s := rfl
    refine ⟨by simp [hframe, execRxFrameError, hdeaf, w],
      by simp [hduplicate, execDuplicateAddress, hdeaf, w], fun a f => ⟨?_, ?_⟩⟩
    · simp [hopen, execSteamOpenReceived, State.receive, hdeaf, w]
    · rw [exec_valveFaultReceived]
      simp [State.receive, hdeaf, w]

end Sys2Proof.Machine
end

section
/-! The place of a notice in the transmit queue (R114 to R118). -/

namespace Sys2Proof.Machine

/-! ### The queue -/

/-- A notice stands in a queue behind every kind up to its own and ahead of every greater one (R116). -/
def Notice.placed (n : Notice) (into out : List QueueEntry) : Prop :=
  ∃ front back, into = front ++ back ∧ out = front ++ ⟨n, false⟩ :: back ∧
    (∀ e ∈ front, e.notice.kind ≤ n.kind) ∧ (∀ e ∈ back, n.kind < e.notice.kind)

theorem insertEntry_placed (n : Notice) {q : List QueueEntry}
    (h : q.Pairwise fun a b => a.notice.kind ≤ b.notice.kind) :
    n.placed q (insertEntry ⟨n, false⟩ q) := by
  induction q with
  | nil => exact ⟨[], [], rfl, rfl, by simp, by simp⟩
  | cons x q ih =>
    obtain ⟨hx, hq⟩ := List.pairwise_cons.mp h
    simp only [insertEntry]
    split
    next hlt =>
      refine ⟨[], x :: q, rfl, rfl, by simp, fun e he => ?_⟩
      rcases List.mem_cons.mp he with rfl | he
      · exact hlt
      · exact hlt.trans_le (hx e he)
    next hle =>
      obtain ⟨front, back, rfl, hout, hfront, hback⟩ := ih hq
      refine ⟨x :: front, back, rfl, by rw [hout]; rfl, fun e he => ?_, hback⟩
      rcases List.mem_cons.mp he with rfl | he
      · exact Nat.le_of_not_lt hle
      · exact hfront e he

/-- No waiting entry has a kind above the largest (R117). -/
theorem largestWaitingKind_ge {q : List QueueEntry} {e : QueueEntry} (he : e ∈ q)
    (hf : e.inFlight = false) : e.notice.kind ≤ largestWaitingKind q := by
  have hmax (l : List QueueEntry) (k : Nat) :
      k ≤ l.foldl (fun k e => max k e.notice.kind) k ∧
      ∀ x ∈ l, x.notice.kind ≤ l.foldl (fun k e => max k e.notice.kind) k := by
    induction l generalizing k with
    | nil => simp
    | cons y l ih =>
      obtain ⟨hk, hl⟩ := ih (max k y.notice.kind)
      simp only [List.foldl_cons, List.mem_cons, forall_eq_or_imp]
      exact ⟨by omega, by omega, hl⟩
  exact (hmax (waitingOf q) 0).2 e (List.mem_filter.mpr ⟨he, by simp [hf]⟩)

/-- The largest waiting kind is above a bound when some waiting entry's kind is (R117). -/
theorem largestWaitingKind_gt {q : List QueueEntry} {k : Nat} :
    k < largestWaitingKind q ↔ ∃ e ∈ q, e.inFlight = false ∧ k < e.notice.kind := by
  constructor
  · intro h
    obtain ⟨e, he, hf, hk⟩ := largestWaitingKind_mem q (by omega)
    exact ⟨e, he, hf, by omega⟩
  · rintro ⟨e, he, hf, hk⟩
    exact hk.trans_le (largestWaitingKind_ge he hf)

/-- The youngest waiting entry of a kind leaves the queue where it stands (R117). -/
theorem removeYoungest_split {front back : List QueueEntry} {gone : QueueEntry}
    (hf : gone.inFlight = false)
    (hback : ∀ e ∈ back, e.inFlight = false → e.notice.kind < gone.notice.kind) :
    removeYoungest gone.notice.kind (front ++ gone :: back) = front ++ back := by
  have hnone : ∀ e ∈ back.reverse, ¬ (!e.inFlight && e.notice.kind == gone.notice.kind) = true := by
    intro e he h
    obtain ⟨hw, hk⟩ := Bool.and_eq_true_iff.mp h
    have hlow := hback e (by simpa using he) (by simpa using hw)
    simp at hk
    omega
  unfold removeYoungest
  rw [List.reverse_append, List.reverse_cons, List.append_assoc, List.eraseP_append_right _ hnone]
  simp [hf]

/-- An entry in flight does not give way (R117). -/
theorem mem_removeYoungest {k : Nat} {q : List QueueEntry} {e : QueueEntry} (he : e ∈ q)
    (hf : e.inFlight = true) : e ∈ removeYoungest k q := by
  unfold removeYoungest
  rw [List.mem_reverse, List.mem_eraseP_of_neg (by simp [hf])]
  simpa using he

/-! ### Joining the queue -/

/-- A queue with room takes a notice at its place (R116). -/
theorem State.joinQueue_room {s : State} (n : Notice) (h : s.link.queue.length < 8) :
    s.joinQueue n = s.withLink (s.link.withQueue (insertEntry ⟨n, false⟩ s.link.queue)) := by
  simp [State.joinQueue, queueCapacity, h]

/-- A full queue drops a newcomer that no waiting entry gives way to (R117). -/
theorem State.joinQueue_drops {s : State} {n : Notice} (h : 8 ≤ s.link.queue.length)
    (hall : ∀ e ∈ s.link.queue, e.inFlight = false → e.notice.kind ≤ n.kind) :
    s.joinQueue n = s.countLink fun c => { c with txDropped := c.txDropped + 1 } := by
  have hfull : ¬ s.link.queue.length < queueCapacity := by unfold queueCapacity; omega
  have hlow : ¬ n.kind < largestWaitingKind s.link.queue := by
    rw [largestWaitingKind_gt]
    rintro ⟨e, he, hf, hk⟩
    have := hall e he hf
    omega
  simp only [State.joinQueue, if_neg hfull, if_neg hlow]

/-- A full queue gives up its youngest entry of the largest waiting kind for a newcomer of a lower one
(R117). -/
theorem State.joinQueue_displaces {s : State} {n : Notice} (h : 8 ≤ s.link.queue.length)
    (hgone : ∃ e ∈ s.link.queue, e.inFlight = false ∧ n.kind < e.notice.kind) :
    (s.joinQueue n).link = s.link.withQueue (insertEntry ⟨n, false⟩
      (removeYoungest (largestWaitingKind s.link.queue) s.link.queue)) ∧
    (s.joinQueue n).counters = { s.counters with
      link := { s.counters.link with txDropped := s.counters.link.txDropped + 1 } } ∧
    (s.joinQueue n).config =
      if largestWaitingKind s.link.queue = 10 then s.config.pagesLeave 1 else s.config := by
  have hfull : ¬ s.link.queue.length < queueCapacity := by unfold queueCapacity; omega
  simp only [State.joinQueue, if_neg hfull, if_pos (largestWaitingKind_gt.mpr hgone)]
  split <;> simp [State.pageLeft_lost, State.countLink, State.withCounters]

/-- While a frame is in flight what has overtaken it stays remembered (R118). -/
theorem Link.withQueue_sending (l : Link) {q : List QueueEntry} (h : ∃ e ∈ q, e.inFlight = true) :
    (l.withQueue q).shutOvertaken = l.shutOvertaken := by
  have hany : q.any (·.inFlight) = true := by simpa using h
  simp [Link.withQueue, hany]

theorem State.joinQueue_overtaken {s : State} (n : Notice)
    (h : ∃ e ∈ s.link.queue, e.inFlight = true) :
    (s.joinQueue n).link.shutOvertaken = s.link.shutOvertaken := by
  obtain ⟨e, he, hf⟩ := h
  by_cases hroom : s.link.queue.length < 8
  · rw [State.joinQueue_room n hroom, State.withLink_link]
    exact Link.withQueue_sending _ ⟨e, mem_insertEntry.mpr (.inr he), hf⟩
  by_cases hgone : ∃ e ∈ s.link.queue, e.inFlight = false ∧ n.kind < e.notice.kind
  · rw [(State.joinQueue_displaces (by omega) hgone).1]
    exact Link.withQueue_sending _ ⟨e, mem_insertEntry.mpr (.inr (mem_removeYoungest he hf)), hf⟩
  · rw [State.joinQueue_drops (by omega) fun x hx hw => Nat.le_of_not_lt fun hk => hgone ⟨x, hx, hw, hk⟩]
    simp [State.countLink]

/-! ### Offering -/

/-- A STEAM-SHUT takes the STEAM-OPENs out and is not queued (R118, log 17). -/
theorem State.offer_steamShut_cancels {s : State} (ha : s.link.state = .active)
    (h : ∃ e ∈ s.link.queue, e.notice = .steamOpen) :
    s.offer .steamShut =
      s.withLink (s.link.withQueue (s.link.queue.filter fun e => e.notice != .steamOpen)) := by
  have hany : (s.link.queue.any fun e => e.notice == .steamOpen) = true := by simpa using h
  simp only [State.offer, ha, hany, if_true]

/-- A STEAM-OPEN takes the waiting STEAM-SHUTs out, is remembered against one in flight, and joins (R118). -/
theorem State.offer_steamOpen {s : State} (ha : s.link.state = .active) :
    s.offer .steamOpen = (s.withLink
      (s.link.overtake.withQueue (dropWaiting .steamShut s.link.queue))).joinQueue .steamOpen := by
  simp only [State.offer, ha]

/-- Every other notice, and a STEAM-SHUT that finds no STEAM-OPEN, joins the queue (R116, R118). -/
theorem State.offer_joins {s : State} {n : Notice} (ha : s.link.state = .active) (hn : n ≠ .steamOpen)
    (h : n = .steamShut → ∀ e ∈ s.link.queue, e.notice ≠ .steamOpen) : s.offer n = s.joinQueue n := by
  cases n
  case steamOpen => exact absurd rfl hn
  case steamShut =>
    have hnone : (s.link.queue.any fun e => e.notice == .steamOpen) = false := by simpa using h rfl
    simp only [State.offer, ha, hnone]
    rfl
  all_goals simp only [State.offer, ha]

/-- The entries that a STEAM-OPEN leaves are those in flight and those that are no STEAM-SHUT (R118). -/
theorem dropWaiting_steamShut (q : List QueueEntry) :
    dropWaiting .steamShut q = q.filter fun e => e.inFlight = true ∨ e.notice ≠ .steamShut := by
  unfold dropWaiting
  congr 1
  funext e
  exact Bool.eq_iff_iff.mpr (by simp)

/-- A STEAM-OPEN offered while a STEAM-SHUT is in flight has overtaken it, and no other notice has (R118). -/
theorem State.offer_overtakes {s : State} (n : Notice) (ha : s.link.state = .active)
    (h : ∃ e ∈ s.link.queue, e.inFlight = true ∧ e.notice = .steamShut) :
    (s.offer n).link.shutOvertaken = (s.link.shutOvertaken || decide (n = .steamOpen)) := by
  obtain ⟨e, he, hf, hshut⟩ := h
  by_cases hopen : n = .steamOpen
  · have hsending : s.link.sendingShut = true := by
      simp only [Link.sendingShut, List.any_eq_true]
      exact ⟨e, he, by simp [hf, hshut]⟩
    have hstays : ∃ x ∈ dropWaiting .steamShut s.link.queue, x.inFlight = true :=
      ⟨e, List.mem_filter.mpr ⟨he, by simp [hf]⟩, hf⟩
    rw [hopen, State.offer_steamOpen ha, State.joinQueue_overtaken _ (by simpa using hstays),
      State.withLink_link, Link.withQueue_sending _ hstays]
    simp [Link.overtake, hsending]
  by_cases hcancels : n = .steamShut ∧ ∃ x ∈ s.link.queue, x.notice = .steamOpen
  · obtain ⟨rfl, hx⟩ := hcancels
    rw [State.offer_steamShut_cancels ha hx, State.withLink_link, Link.withQueue_sending]
    · simp
    · exact ⟨e, List.mem_filter.mpr ⟨he, by simp [hshut]⟩, hf⟩
  · rw [State.offer_joins ha hopen fun hn x hx ho => hcancels ⟨hn, x, hx, ho⟩,
      State.joinQueue_overtaken n ⟨e, he, hf⟩]
    simp [hopen]

/-- A notice that meets no opposite steam notice joins the queue as it stands (R116, R118). -/
theorem State.offer_uncancelled {s : State} {n : Notice} (ha : s.link.state = .active)
    (hs : n = .steamShut → ∀ e ∈ s.link.queue, e.notice ≠ .steamOpen)
    (ho : n = .steamOpen → ∀ e ∈ s.link.queue, e.inFlight = true ∨ e.notice ≠ .steamShut) :
    ∃ x : State, s.offer n = x.joinQueue n ∧ x.link.queue = s.link.queue ∧ x.counters = s.counters ∧
      x.config = s.config := by
  by_cases hn : n = .steamOpen
  · refine ⟨_, by rw [hn]; exact State.offer_steamOpen ha, ?_, by simp, by simp⟩
    rw [State.withLink_link, Link.withQueue_queue, dropWaiting_steamShut]
    exact List.filter_eq_self.mpr fun e he => by simpa using ho hn e he
  · exact ⟨s, State.offer_joins ha hn hs, rfl, rfl, rfl⟩

/-- Settles O44: by the state of the link, then by the steam notices, then by the room in the queue. -/
theorem noticeTakesItsPlace : Obligations.NoticeTakesItsPlace := by
  intro s n hok q u new placed dropped
  have hsorted : q.Pairwise fun a b => a.notice.kind ≤ b.notice.kind := hok.sorted
  refine ⟨fun ha => ?_, fun ha hn hopen => ?_, fun ha hn hshut => ?_,
    fun ha hflight => State.offer_overtakes n ha hflight, fun ha hs ho => ?_⟩
  · exact State.offer_silent ha n
  · simp only [u, hn, State.offer_steamShut_cancels ha hopen]
    refine ⟨?_, by simp⟩
    rw [State.withLink_link, Link.withQueue_queue]
    congr 1
    funext e
    exact Bool.eq_iff_iff.mpr (by simp)
  · subst hn
    obtain ⟨e, he, hf, hnotice⟩ := hshut
    have hroom : (dropWaiting .steamShut q).length < 8 := by
      have hless : (dropWaiting .steamShut q).length < q.length :=
        List.length_filter_lt_length_iff_exists.mpr ⟨e, he, by simp [hf, hnotice]⟩
      exact hless.trans_le hok.bounded
    have hu : u = _ := State.offer_steamOpen ha
    rw [hu, State.joinQueue_room _ (by simpa using hroom), ← dropWaiting_steamShut]
    refine ⟨?_, by simp⟩
    simp only [State.withLink_link, Link.withQueue_queue]
    exact insertEntry_placed _ (hsorted.sublist List.filter_sublist)
  · obtain ⟨x, hu, hqueue, hc, -⟩ := State.offer_uncancelled ha hs ho
    have hq : x.link.queue = q := hqueue
    simp only [u, hu]
    refine ⟨fun hroom => ?_, fun hfull hall => ?_, fun front gone back hfull hsplit hf hk hmost hback => ?_⟩
    · rw [State.joinQueue_room n (by rwa [hq]), hq]
      exact ⟨insertEntry_placed n hsorted, hc⟩
    · rw [State.joinQueue_drops (by rwa [hq]) (by rwa [hq])]
      simp [State.countLink, hq, hc, dropped]
    · have hmem : gone ∈ q := by rw [hsplit]; simp
      have hlargest : largestWaitingKind q = gone.notice.kind := by
        obtain ⟨e, he, hw, hkind⟩ :=
          largestWaitingKind_mem q ((Nat.zero_le _).trans_lt (largestWaitingKind_gt.mpr ⟨gone, hmem, hf, hk⟩))
        have hhigh := hmost e he hw
        have hlow := largestWaitingKind_ge hmem hf
        omega
      obtain ⟨hlink, hcount, -⟩ := State.joinQueue_displaces (by rwa [hq]) ⟨gone, by rwa [hq], hf, hk⟩
      rw [hlink, hcount, hq, hlargest, hc, Link.withQueue_queue, hsplit, removeYoungest_split hf hback]
      refine ⟨insertEntry_placed n (hsorted.sublist ?_), rfl⟩
      rw [hsplit]
      exact (List.sublist_cons_self gone back).append_left front

end Sys2Proof.Machine
end

section
/-! The conveyor and the windows (R136, R145 to R147), and the gate (R167, R168). -/

namespace Sys2Proof.Machine

/-- Settles O48: the entries in front whose windows are passed are closed one after another. -/
theorem conveyorAndWindows : Obligations.ConveyorAndWindows := by
  intro s t hr w c past
  have hadvance (backward : Bool) :
      exec (.conveyorAdvance t backward) s = execConveyorAdvance t backward s := rfl
  have hruns : (s.enter t).checkRuns = true := (s.enter_runs t).2.trans hr
  refine ⟨by simp [hadvance, execConveyorAdvance, hruns, State.withTransit, w],
    by simp [hadvance, execConveyorAdvance, w], fun closed rest hsplit hclosed hrest => ?_⟩
  have hexec : exec (.transitWindowClose t) s = .next w.closeWindows := by
    have hrule : exec (.transitWindowClose t) s = execTransitWindowClose t s := rfl
    simp [hrule, execTransitWindowClose, hruns, w]
  have hpast (e : TransitEntry) : w.windowPassed e = true ↔ past e := by
    simp [State.windowPassed, passed, State.halfWidth, w, past]
  obtain ⟨htake, hdrop⟩ := List.split_at_first w.windowPassed closed rest
    (fun e he => (hpast e).mpr (hclosed e he))
    (fun e he => Bool.eq_false_iff.mpr (mt (hpast e).mp (hrest e he)))
  intro voids gaps missing
  refine ⟨_, hexec, ?_⟩
  have hcloses : w.closeWindows =
      closed.foldl State.closeWindow (w.withTransit { s.transit with entries := rest }) := by
    have hentries : w.transit.entries = closed ++ rest := by simpa [w] using hsplit
    simp only [State.closeWindows, hentries, htake, hdrop]
    simp [w]
  obtain ⟨hcheck, hlifetime, hlink, htransit, hreject, hnode, hpins, hmemory⟩ :=
    State.closeWindow_all closed (w.withTransit { s.transit with entries := rest })
  rw [hcloses, hcheck, hlifetime, hlink, htransit, hreject, hnode, hpins, hmemory]
  simp [State.foldl_offer_link, missingNotices, w, c, voids, gaps, missing]

/-- Settles O51: by how far the queue's gate positions are reached, and by the end of the pulse. -/
theorem gatePulses : Obligations.GatePulses := by
  intro s t hr w due
  have hruns : (s.enter t).checkRuns = true := (s.enter_runs t).2.trans hr
  have hgate : exec (.gatePositionReached t) s = .next w.fireGates := by
    have hrule : exec (.gatePositionReached t) s = execGatePositionReached t s := rfl
    simp [hrule, execGatePositionReached, hruns, w]
  have hend : exec (.rejectPulseEnd t) s = .next w.endPulse := by
    have hrule : exec (.rejectPulseEnd t) s = execRejectPulseEnd t s := rfl
    simp [hrule, execRejectPulseEnd, hruns, w]
  refine ⟨fun gone rest hsplit hgone hrest => ?_, fun hnone => ?_,
    fun e he => ⟨fun hdue => ?_, fun hdue => ?_⟩⟩
  · obtain ⟨-, hdrop⟩ := List.split_at_first (fun g => reached s.transit.position g) gone rest
      (fun g hg => by simpa [reached] using hgone g hg) (fun g hg =>
        decide_eq_false (hrest g hg))
    have hfire : w.fireGates = if rest.length < s.reject.queue.length then
        (w.withReject { s.reject with queue := rest }).pulseGate else w := by
      have hqueue : w.reject.queue.dropWhile (fun g => reached w.transit.position g) = rest := by
        simpa [hsplit, w] using hdrop
      simp only [State.fireGates, hqueue]
      simp [w]
    rw [hgate, hfire]
    refine ⟨fun hempty => ?_, fun hsome => ?_⟩
    · rw [if_neg (by simp [hsplit, hempty])]
    · have hlen := List.length_pos_iff.mpr hsome
      rw [if_pos (by rw [hsplit, List.length_append]; omega)]
      simp [State.pulseGate, State.withReject, w, msTime]
  · simp [hend, State.endPulse, hnone, w]
  · simp [hend, State.endPulse, he, reached, hdue, State.withReject, w]
  · simp [hend, State.endPulse, he, reached, hdue, w]

end Sys2Proof.Machine
end

section
/-! COMMAND notices (R177, R178): the tests in their order, what each op does by role, and the lamp (R188). -/

namespace Sys2Proof.Machine

/-- A delivered COMMAND is tested at once (R112, R177). -/
theorem State.takeCommand_delivered {s : State} (t : Time) {sender : Address} (mask : BitVec 32)
    (op arg : Byte) (h : s.delivers sender) :
    (s.enter t).takeCommand sender mask op arg = (s.enter t).testCommand sender mask op arg := by
  obtain ⟨hlink, hpend, hown⟩ := h
  exact State.receive_taken t hlink hpend hown fun x b => x.testCommand_pend b sender mask op arg

theorem State.refuseCommand_eq (s : State) : s.refuseCommand = s.refused := rfl

/-- Only the line controllers send commands (R177). -/
theorem isController_iff (a : Address) : isController a = true ↔ a = 30#5 ∨ a = 31#5 := by
  simp [isController]

/-- Test 4: ops outside 1..7 and arguments out of range fail it (R177). -/
theorem commandInRange_iff (op arg : Byte) : commandInRange op arg = true ↔
    ¬ (op = 0 ∨ 7 < op.toNat ∨ (op = 1 ∧ 3 < arg.toNat) ∨ (op = 6 ∧ 2 < arg.toNat)) := by
  simp only [commandInRange, ← BitVec.toNat_inj, beq_eq_decide, Bool.and_eq_true, decide_eq_true_eq,
    Bool.not_eq_true', Bool.and_eq_false_iff, decide_eq_false_iff_not]
  simp
  omega

section
variable {s : State} {sender : Address} {mask : BitVec 32}
  (hsender : sender = 30#5 ∨ sender = 31#5) (hnamed : mask.getLsbD s.node.address.toNat = true)
include hsender hnamed

/-- From the power warning on, and before the start, a line controller's command has no effect (R177). -/
theorem State.testCommand_quiet (hm : s.node.mode = .saved ∨ s.node.mode = .start) (op arg : Byte) :
    s.testCommand sender mask op arg = s := by
  have hcontroller := (isController_iff sender).mpr hsender
  rcases hm with hm | hm <;> simp [State.testCommand, hcontroller, maskNames, hnamed, hm]

theorem State.testCommand_halted (hm : s.node.mode = .halted) (op arg : Byte) :
    s.testCommand sender mask op arg = if op = 6 then s.testOp op arg else s.refused := by
  have hcontroller := (isController_iff sender).mpr hsender
  simp [State.testCommand, hcontroller, maskNames, hnamed, hm, State.refuseCommand_eq]

theorem State.testCommand_operating (hm : s.node.mode = .operating) (op arg : Byte) :
    s.testCommand sender mask op arg = s.testOp op arg := by
  have hcontroller := (isController_iff sender).mpr hsender
  simp [State.testCommand, hcontroller, maskNames, hnamed, hm]

end

/-- Settles O52: by the first test that fails. -/
theorem commandTests : Obligations.CommandTests := by
  intro s t sender mask op arg c hdelivers hc w named
  have hexec : exec c s = .next (w.testCommand sender mask op arg) := by
    rw [← State.takeCommand_delivered t mask op arg hdelivers]
    rcases hc with hc | rfl
    · simp only [List.mem_cons, Prod.mk.injEq, List.not_mem_nil, or_false] at hc
      rcases hc with ⟨rfl, rfl⟩ | ⟨rfl, rfl⟩ | ⟨rfl, rfl⟩ | ⟨rfl, rfl⟩ | ⟨rfl, rfl⟩ | ⟨rfl, rfl⟩ |
        ⟨rfl, rfl⟩ <;> rfl
    · rfl
  have hnode : w.node = s.node := by simp [w]
  rw [hexec]
  refine ⟨fun h30 h31 => ?_, fun hsender => ⟨fun hn => ?_, fun hn hm => ?_, fun hn hm hop => ?_,
    fun hn hm hrange => ?_, fun hn hm hop harg => ?_⟩⟩
  · have hother : isController sender = false :=
      Bool.eq_false_iff.mpr fun h => ((isController_iff _).mp h).elim h30 h31
    simp [State.testCommand, hother, State.refuseCommand_eq]
  · have hcontroller := (isController_iff sender).mpr hsender
    have hothers : maskNames mask w.node.address = false := by
      rw [hnode]
      exact Bool.eq_false_iff.mpr hn
    simp [State.testCommand, hcontroller, hothers]
  all_goals rw [← hnode] at hm
  all_goals
    have hn' : mask.getLsbD w.node.address.toNat = true := by rw [hnode]; exact hn
  · rw [State.testCommand_quiet hsender hn' hm]
  · rw [State.testCommand_halted hsender hn' hm, if_neg hop]
  · have hfails : commandInRange op arg = false :=
      Bool.eq_false_iff.mpr fun h => (commandInRange_iff op arg).mp h hrange
    rw [State.testCommand_operating hsender hn' hm, State.testOp, hfails]
    rfl
  · have hfails : commandInRange op arg = false :=
      Bool.eq_false_iff.mpr fun h => (commandInRange_iff op arg).mp h (.inr (.inr (.inr ⟨hop, harg⟩)))
    rw [State.testCommand_halted hsender hn' hm, if_pos hop, State.testOp, hfails]
    rfl

/-! ### The ops -/

/-- An addressed command whose test 4 passes is carried out in OPERATING (R177, R178). -/
theorem State.takeCommand_carried {s : State} (t : Time) {sender : Address} {mask : BitVec 32}
    {op arg : Byte} (h : s.addressed sender mask) (hm : s.node.mode = .operating)
    (hrange : commandInRange op arg = true) :
    (s.enter t).takeCommand sender mask op arg = (s.enter t).carryOut op arg := by
  obtain ⟨hdelivers, hsender, hnamed⟩ := h
  rw [State.takeCommand_delivered t mask op arg hdelivers,
    State.testCommand_operating hsender (by simpa using hnamed) (by simpa using hm), State.testOp,
    if_pos hrange]

/-- Settles O53: each op by the role of the node. -/
theorem opsByRole : Obligations.OpsByRole := by
  intro s t sender mask arg haddressed hm w pends degraded
  have hcarried (op : Byte) (hrange : commandInRange op arg = true) :=
    State.takeCommand_carried t (op := op) (arg := arg) haddressed hm hrange
  have hselect : exec (.selectBank t sender mask arg) s = .next (w.testOp 1 arg) := by
    obtain ⟨hdelivers, hsender, hnamed⟩ := haddressed
    have htested := State.testCommand_operating (s := w) (mask := mask) hsender (by simpa [w] using hnamed)
      (by simpa [w] using hm) 1 arg
    rw [← htested, ← State.takeCommand_delivered t mask 1 arg hdelivers]
    rfl
  have hlock : exec (.lock t sender mask arg) s = .next (w.opLockAction .lock) :=
    congrArg Host.Outcome.next (hcarried 2 ((commandInRange_iff 2 arg).mpr (by simp)))
  have hrestore : exec (.restore t sender mask arg) s = .next (w.opLockAction .restore) :=
    congrArg Host.Outcome.next (hcarried 3 ((commandInRange_iff 3 arg).mpr (by simp)))
  have htrim : exec (.trimReset t sender mask arg) s = .next w.opTrimReset :=
    congrArg Host.Outcome.next (hcarried 4 ((commandInRange_iff 4 arg).mpr (by simp)))
  have hrelease : exec (.releaseStop t sender mask arg) s = .next w.opReleaseStop :=
    congrArg Host.Outcome.next (hcarried 7 ((commandInRange_iff 7 arg).mpr (by simp)))
  have hrole : w.node.role = s.node.role := by simp [w]
  refine ⟨fun hhead => ⟨?_, ?_, ?_, ?_, ?_⟩,
    fun hcheck => ⟨?_, ?_, ?_, ?_, fun hstop => ?_, fun hstop => ?_⟩⟩
  · rintro b rfl
    have hnumber : (BitVec.ofNat 8 b.toNat).toNat = b.toNat := by
      rw [BitVec.toNat_ofNat]
      omega
    have hrange : commandInRange 1 (BitVec.ofNat 8 b.toNat) = true :=
      (commandInRange_iff _ _).mpr (by simp; omega)
    rw [hselect, State.testOp, if_pos hrange]
    have hop : w.carryOut 1 (BitVec.ofNat 8 b.toNat) = w.opSelectBank (BitVec.ofNat 8 b.toNat) := rfl
    rw [hop, State.opSelectBank, hrole, hhead, hnumber]
    cases hu : s.config.usable.get b <;> simp [hu, w, State.withSeq, State.refuseCommand_eq]
  · simp [hlock, State.opLockAction, hhead, LockAction.after, State.withSeq, w, pends]
  · cases hp : s.seq.pendingLock <;>
      simp [hrestore, State.opLockAction, hhead, LockAction.after, State.withSeq, hp, w, pends]
  · simp [htrim, State.opTrimReset, hhead, State.resetTrims_eq, w, degraded, State.withVerdicts]
  · simp [hrelease, State.opReleaseStop, hrole, hhead, State.refuseCommand_eq]
  · rw [hselect, State.testOp]
    have hop : w.carryOut 1 arg = w.opSelectBank arg := rfl
    rw [hop]
    simp [State.opSelectBank, hrole, hcheck, State.refuseCommand_eq]
  · simp [hlock, State.opLockAction, hrole, hcheck, State.refuseCommand_eq]
  · simp [hrestore, State.opLockAction, hrole, hcheck, State.refuseCommand_eq]
  · simp [htrim, State.opTrimReset, hrole, hcheck, State.refuseCommand_eq]
  · simp [hrelease, State.opReleaseStop, hcheck, hstop, State.refuseCommand_eq, w]
  · simp [hrelease, State.opReleaseStop, hcheck, hstop, State.withReject, w]

/-! ### The lamp -/

theorem State.lamp_iff (s : State) : s.lamp = true ↔
    s.node.mode = .halted ∨ s.link.state = .mute ∨ s.link.state = .off ∨ s.seq.selfLock = true ∨
      s.reject.stop = true := by
  simp [State.lamp, or_assoc]

/-- In the wait for the crystal the lamp is lit by an OFF link alone (R188). -/
theorem State.Started.lamp_iff {u : State} {m : Memory} {cause : ResetCause} {inp : StartInputs}
    (h : u.Started m cause inp) : u.lamp = true ↔ inp.addr = 30#5 ∨ inp.addr = 31#5 := by
  have hlock : u.seq.selfLock = false := by rw [h.sequencer]; rfl
  have hstop : u.reject.stop = false := by
    obtain ⟨-, -, -, -, -, hreject⟩ := h.blocks
    rw [hreject]
    rfl
  have hlink : u.link.state = if isController inp.addr then .off else .starting := by rw [h.link]
  rw [State.lamp_iff, hlock, hstop, hlink, h.waiting.1, ← isController_iff]
  cases isController inp.addr <;> simp

/-- Settles O55: by its five causes, after a reset and at the release of the latch. -/
theorem lampFollows : Obligations.LampFollows := by
  refine ⟨State.lamp_iff, fun s inp cut hp hc => ?_,
    fun s t sender mask arg ha hm hcheck hstop hlock hlink => ?_⟩
  · exact ⟨_, rfl, (State.startSequence_started (s := s.cutSave cut) inp .pin hc hp).1.lamp_iff⟩
  · obtain ⟨-, -, -, -, -, hrelease⟩ := (opsByRole s t sender mask arg ha hm).2 hcheck
    refine ⟨(State.lamp_iff s).mpr (by simp [hstop]), _, hrelease hstop, Bool.eq_false_iff.mpr ?_⟩
    rw [ne_eq, State.lamp_iff]
    simp [hm, hlock, hlink]

end Sys2Proof.Machine
end

section
/-! Counts and reports (R179 to R181): the ops, the pages sent, and a page displaced. -/

namespace Sys2Proof.Machine

/-! ### CLEAR-COUNTS and REPORT -/

theorem State.opClearCounts_eq (s : State) : s.opClearCounts = { s with
    counters := Counters.zero
    config := { s.config with
      clearPending := if s.config.reportOutstanding then false else s.config.clearPending } } := by
  simp only [State.opClearCounts, State.withCounters, State.withConfig]
  split
  next h => exact if_pos h
  next h => exact if_neg h

/-- A REPORT in range that an OPERATING or a HALTED node is addressed with (R177). -/
theorem State.takeCommand_report {s : State} (t : Time) {sender : Address} {mask : BitVec 32} {arg : Byte}
    (h : s.addressed sender mask) (hm : s.node.mode = .operating ∨ s.node.mode = .halted)
    (harg : arg.toNat ≤ 2) :
    (s.enter t).takeCommand sender mask 6 arg = (s.enter t).opReport arg := by
  have hrange : commandInRange 6 arg = true := (commandInRange_iff 6 arg).mpr (by simp; omega)
  obtain ⟨hdelivers, hsender, hnamed⟩ := h
  have htested : (s.enter t).testCommand sender mask 6 arg = (s.enter t).testOp 6 arg := by
    rcases hm with hm | hm
    · exact State.testCommand_operating hsender (by simpa using hnamed) (by simpa using hm) 6 arg
    · exact (State.testCommand_halted hsender (by simpa using hnamed) (by simpa using hm) 6 arg).trans
        (if_pos rfl)
  rw [State.takeCommand_delivered t mask 6 arg hdelivers, htested, State.testOp, if_pos hrange]
  rfl

/-- A REPORT with none outstanding: the snapshot, the pages that the queue takes, and those lost (R180). -/
theorem State.opReport_eq {s : State} {arg : Byte} {taken : Nat}
    (h : s.config.reportOutstanding = false)
    (htaken : (if s.link.state = .active then min (reportPages arg).length (8 - s.link.queue.length) else 0) =
      taken) :
    let snap := s.reportSnapshot arg
    let lost := BitVec.ofNat 32 ((reportPages arg).length - taken)
    let c := s.counters.link
    s.opReport arg = { s with
      link := { s.link with
        queue := s.link.queue ++
          ((reportPages arg).take taken).map fun p => (⟨reportPage p snap, false⟩ : QueueEntry)
        wire := if taken = 0 ∨ ∃ e ∈ s.link.queue, e.inFlight = true then s.link.wire else []
        shutOvertaken := s.link.shutOvertaken &&
          decide (taken = 0 ∨ ∃ e ∈ s.link.queue, e.inFlight = true) }
      counters := { s.counters with
        link := if s.link.state = .active then { c with txDropped := c.txDropped + lost }
          else { c with linkDropped := c.linkDropped + lost } }
      config := { s.config with
        reportOutstanding := decide (0 < taken), clearPending := decide (arg = 1)
        snapshot := if taken = 0 then none else some snap
        pagesInQueue := taken, pagesLost := decide (taken < (reportPages arg).length) } } := by
  intro snap lost c
  have hclear : (arg == clearArg) = decide (arg = 1) := rfl
  simp only [State.opReport, h, State.offerPages_eq, State.beginReport, State.withConfig, htaken,
    State.endEmptyReport, hclear]
  by_cases hnone : taken = 0
  · simp [hnone, lost, c]
  · by_cases hflight : ∃ e ∈ s.link.queue, e.inFlight = true
    · simp [hnone, hflight, lost, c, snap, Nat.pos_of_ne_zero hnone]
    · simp [hnone, hflight, lost, c, snap, Nat.pos_of_ne_zero hnone]

/-- The pages of a request, by what it asks for (R180 step 3). -/
theorem reportPages_notices (s : State) (arg : Byte) :
    let live := s.counters.live s.node.role
    let l := s.config.lifetime
    let page (i : Nat) : Notice :=
      if arg = 2 then .report 5 l.one l.two l.three l.four
      else .report i (live.getD (4 * i) 0) (live.getD (4 * i + 1) 0) (live.getD (4 * i + 2) 0)
        (live.getD (4 * i + 3) 0)
    (reportPages arg).map (fun p => reportPage p (s.reportSnapshot arg)) =
      if arg = 2 then [page 5] else [page 0, page 1, page 2, page 3, page 4] := by
  intro live l page
  by_cases harg : arg = 2#8
  · subst harg
    rfl
  · have hlive : (arg == lifetimeArg) = false := beq_false_of_ne harg
    simp [reportPages, State.reportSnapshot, reportPage, hlive, harg, page, live]

/-- The snapshot of a request, by what it asks for (R180 step 2). -/
theorem State.reportSnapshot_eq (s : State) (arg : Byte) : s.reportSnapshot arg =
    if arg = 2 then [s.config.lifetime.one, s.config.lifetime.two, s.config.lifetime.three,
        s.config.lifetime.four]
      else s.counters.live s.node.role := by
  by_cases harg : arg = 2#8
  · subst harg
    rfl
  · have hlive : (arg == lifetimeArg) = false := beq_false_of_ne harg
    simp [State.reportSnapshot, hlive, harg]

/-! ### Pages that leave the queue -/

theorem QueueEntry.isPage_eq (e : QueueEntry) : e.isPage = e.notice.isReport := by
  unfold QueueEntry.isPage
  cases e.notice <;> rfl

/-- The frame of a page has been sent: the page leaves the queue and the report (R110, R181). -/
theorem State.finishFrame_page {s : State} {front back : List QueueEntry} {page : QueueEntry}
    (hq : s.link.queue = front ++ page :: back) (hpage : page.isPage = true) (hf : page.inFlight = true)
    (hother : ∀ e ∈ front ++ back, e.inFlight = false) :
    s.finishFrame = ({ s with link := { s.link with
      queue := front ++ back, wire := [], shutOvertaken := false, errors := 0 } } : State).pageLeft false := by
  have hreport : page.notice.isReport = true := by rw [← page.isPage_eq, hpage]
  have hany : (s.link.queue.any fun e => e.inFlight && e.notice.isReport) = true :=
    List.any_eq_true.mpr ⟨page, by simp [hq], by simp [hf, hreport]⟩
  have hstay : s.link.queue.filter (fun e => !e.inFlight) = front ++ back := by
    have hwait : (front ++ back).filter (fun e => !e.inFlight) = front ++ back :=
      List.filter_eq_self.mpr fun e he => by simp [hother e he]
    simpa [hq, hf] using hwait
  simp only [State.finishFrame, hany, Link.withWaiting_eq, hstay]
  rfl

/-- A page sent that is not the last leaves the report outstanding (R181). -/
theorem State.pageLeft_more {s : State} (ho : s.config.reportOutstanding = true)
    (h : 1 < s.config.pagesInQueue) : s.pageLeft false = { s with
      config := { s.config with pagesInQueue := s.config.pagesInQueue - 1 } } := by
  simp only [State.pageLeft, ho, if_neg (show ¬ s.config.pagesInQueue ≤ 1 by omega), if_true]
  simp [State.withConfig]

/-- The last page sent ends the report, and a pending clear applies when no page was lost and no power
warning has come (R181). -/
theorem State.pageLeft_last {s : State} {snap : List Count} (ho : s.config.reportOutstanding = true)
    (h : s.config.pagesInQueue = 1) (hsnap : s.config.snapshot = some snap) : s.pageLeft false = { s with
      config := { s.config with reportOutstanding := false, snapshot := none, pagesInQueue := 0 }
      counters :=
        if s.config.clearPending = true ∧ s.config.pagesLost = false ∧ s.node.mode ≠ .saved then
          s.counters.less s.node.role snap
        else s.counters } := by
  simp [State.pageLeft, State.endReport, ho, h, hsnap, State.withConfig, State.withCounters, and_assoc]

/-- A full queue whose youngest waiting page gives way to a notice of a lower kind (R117, R181). -/
theorem State.joinQueue_page {s : State} {n : Notice} {front back : List QueueEntry} {page : QueueEntry}
    (hfull : 8 ≤ s.link.queue.length) (hq : s.link.queue = front ++ page :: back)
    (hpage : page.isPage = true) (hf : page.inFlight = false)
    (hback : ∀ e ∈ back, e.isPage = true → e.inFlight = true) (hn : n.kind < 10) :
    (s.joinQueue n).config = s.config.pagesLeave 1 ∧
    (s.joinQueue n).counters = { s.counters with
      link := { s.counters.link with txDropped := s.counters.link.txDropped + 1 } } ∧
    (s.joinQueue n).link.queue = insertEntry ⟨n, false⟩ (front ++ back) := by
  have hmem : page ∈ s.link.queue := by simp [hq]
  have hkind : page.notice.kind = 10 := by simpa [QueueEntry.isPage] using hpage
  have hlargest : largestWaitingKind s.link.queue = page.notice.kind := by
    have hge := largestWaitingKind_ge hmem hf
    have hle := largestWaitingKind_le s.link.queue
    omega
  have hyoungest : ∀ e ∈ back, e.inFlight = false → e.notice.kind < page.notice.kind := by
    intro e he hw
    have hle := (largestWaitingKind_ge (by simp [hq, he]) hw).trans_eq hlargest
    refine lt_of_le_of_ne hle fun hten => ?_
    have hflight := hback e he (by simp [QueueEntry.isPage, hten, hkind])
    simp [hw] at hflight
  obtain ⟨hlink, hcounters, hconfig⟩ :=
    State.joinQueue_displaces (n := n) hfull ⟨page, hmem, hf, by rwa [hkind]⟩
  refine ⟨hconfig.trans (if_pos (hlargest.trans hkind)), hcounters, ?_⟩
  rw [hlink, Link.withQueue_queue, hlargest, hq, removeYoungest_split hf hyoungest]

/-- Settles O54: the two ops, then a page sent and a page displaced. -/
theorem countsAndReports : Obligations.CountsAndReports := by
  refine ⟨?_, ?_, ?_⟩
  · intro s t sender mask arg ha hm w live l page pages taken lost c
    have hreport : arg.toNat ≤ 2 → exec (.report t sender mask arg) s = .next (w.opReport arg) :=
      fun harg => congrArg Host.Outcome.next (State.takeCommand_report t ha hm harg)
    refine ⟨fun hoperating => ?_, fun harg hout => ?_, fun harg hout => ?_⟩
    · have hclear : exec (.clearCounts t sender mask arg) s = .next w.opClearCounts :=
        congrArg Host.Outcome.next (State.takeCommand_carried t ha hoperating
          ((commandInRange_iff 5 arg).mpr (by simp)))
      rw [hclear, State.opClearCounts_eq]
      simp [w]
    · simp [hreport harg, State.opReport, w, hout, State.refuseCommand_eq]
    · have hpages : (reportPages arg).map (fun p => reportPage p (w.reportSnapshot arg)) = pages := by
        have hsnap : w.reportSnapshot arg = s.reportSnapshot arg := by simp [State.reportSnapshot, w]
        rw [hsnap]
        exact reportPages_notices s arg
      have hlength : (reportPages arg).length = pages.length := by rw [← hpages, List.length_map]
      have hqueue : ((reportPages arg).take taken).map
            (fun p => (⟨reportPage p (w.reportSnapshot arg), false⟩ : QueueEntry)) =
          (pages.take taken).map fun n => (⟨n, false⟩ : QueueEntry) := by
        rw [← hpages, ← List.map_take, List.map_map]
        rfl
      rw [hreport harg, State.opReport_eq (taken := taken) (by simpa [w] using hout)
        (by simp [w, hlength, taken]), hqueue, hlength, State.reportSnapshot_eq]
      simp [w, c, lost, live, l]
  · intro s t front back page snap ha ho hsnap hq hpage hf hother sent ended clears
    have hsent : exec (.frameSent t) s = .next (sent.pageLeft false) := by
      have htransmits : (s.enter t).transmitting = true :=
        (s.transmitting_enter t).mpr ⟨ha, page, by simp [hq], hf⟩
      have hexec : exec (.frameSent t) s = .next
          (if (s.enter t).transmitting then (s.enter t).finishFrame else s.enter t) := rfl
      rw [hexec, if_pos htransmits,
        State.finishFrame_page (by simpa using hq) hpage hf hother]
      simp [sent]
    have hsento : sent.config.reportOutstanding = true := by simpa [sent] using ho
    have hsentsnap : sent.config.snapshot = some snap := by simpa [sent] using hsnap
    refine ⟨fun hmore => ?_, fun hlast hkeep => ?_, fun hlast hclears hlength => ?_⟩
    · rw [hsent, State.pageLeft_more hsento (by simpa [sent] using hmore)]
      simp [sent]
    · rw [hsent, State.pageLeft_last hsento (by simpa [sent] using hlast) hsentsnap,
        if_neg (by simpa [sent, clears] using hkeep)]
      simp [sent, ended]
    · refine ⟨_, by rw [hsent, State.pageLeft_last hsento (by simpa [sent] using hlast) hsentsnap,
        if_pos (by simpa [sent, clears] using hclears)], by simp [sent, ended], ?_⟩
      simpa [sent] using Counters.less_live s.counters s.node.role snap hlength
  · intro s n front back page ha ho hfull hq hpage hf hback hn hs hopen
    obtain ⟨x, hoffer, hxq, hxc, hxcfg⟩ := State.offer_uncancelled ha hs hopen
    obtain ⟨hconfig, hcounters, hqueue⟩ :=
      State.joinQueue_page (s := x) (by rwa [hxq]) (hxq.trans hq) hpage hf hback hn
    rw [hoffer, hconfig, hcounters, hqueue, hxcfg, hxc]
    refine ⟨rfl, rfl, fun e he => ?_⟩
    rcases mem_insertEntry.mp he with rfl | he
    · exact .inl rfl
    · exact .inr he

end Sys2Proof.Machine
end
